-- ==== Sys2Proof/Word.lean ====
section
/-! DEFINITION. The two widths the command format fixes, and the value types of KSBC: words, bytes, coordinates and trees of coordinates
(00_scope.md R10 to R14), with their plainest operations. -/

namespace Sys2Proof

/-- `XLEN`: the width of an integer operand, and the largest legal bit count. The command format fixes it
(00_scope.md R9, 30_encoding.md R71, R75). -/
abbrev Config.xlen : Nat := 32

/-- `CW`: the width of a coordinate component, of `width` and of `height`. The command format fixes it
(00_scope.md R9, 30_encoding.md R75). -/
abbrev Config.cw : Nat := 16

/-- A word of `XLEN` bits: an integer operand, a seed, an output of the pseudo-random source (00_scope.md R9). -/
abbrev Word := BitVec 32

/-- Every integer operand has `XLEN` bits. -/
theorem word_width : Word = BitVec Config.xlen := rfl

/-- A number of `CW` bits: a coordinate component, a side of a domain (00_scope.md R9). -/
abbrev Component := BitVec 16

/-- Every component and every side of a domain has `CW` bits. -/
theorem component_width : Component = BitVec Config.cw := rfl

/-- A byte, the operand of BPUT (30_encoding.md R75). -/
abbrev Byte := BitVec 8

/-- A command or response word (30_encoding.md R71, R73). -/
abbrev Word64 := BitVec 64

/-- A coordinate `(x, y)` (00_scope.md R9 `CW`, R13). -/
structure Coord where
  x : Component
  y : Component
deriving DecidableEq, Repr, Inhabited

/-- The lexicographic order on coordinates: `x` first, `y` breaks the tie (00_scope.md R13). -/
def Coord.lt (a b : Coord) : Bool :=
  decide (a.x.toNat < b.x.toNat) || (a.x == b.x && decide (a.y.toNat < b.y.toNat))

/-- The packed word `(x, y)` of 00_scope.md R13: `x` in bits 31:16, `y` in bits 15:0. -/
def Coord.pack (c : Coord) : Word := c.x ++ c.y

/-- A tree of coordinates: `Nil`, or a node with left subtree, key and right subtree (00_scope.md R14). -/
inductive CoordTree where
  | nil
  | node (l : CoordTree) (k : Coord) (r : CoordTree)
deriving DecidableEq, Repr, Inhabited

end Sys2Proof
end

