-- ==== Sys2Proof/Machine/Mt.lean ====
section
/-! DEFINITION. MT19937, the algorithm that is KSBC's value of parameter `PRNG` (41_prng.md R131 to R134). All
arithmetic is on 32-bit words, modulo 2^32. -/

namespace Sys2Proof

/-- The number of state words of MT19937 (41_prng.md R131, `n`). -/
abbrev Config.mtWords : Nat := 624

namespace Machine

/-- `F`, the seeding multiplier (41_prng.md R131). -/
def mtF : Word := 0x6C078965

/-- `MATRIX_A` (41_prng.md R131). -/
def mtMatrixA : Word := 0x9908B0DF

/-- `UPPER` (41_prng.md R131). -/
def mtUpper : Word := 0x80000000

/-- `LOWER` (41_prng.md R131). -/
def mtLower : Word := 0x7FFFFFFF

/-- `m`, the middle offset (41_prng.md R131). -/
def mtMiddle : Nat := 397

/-- One step of the seeding recurrence: the word that follows `last` at index `i` (41_prng.md R132). -/
def mtSeedNext (last : Word) (i : Nat) : Word :=
  mtF * (last ^^^ (last >>> 30)) + BitVec.ofNat 32 i

/-- `len` state words from `last`, which stands at index `i` (41_prng.md R132). -/
def mtSeedWords : (len i : Nat) → (last : Word) → List Word
  | 0, _, _ => []
  | len + 1, i, last => last :: mtSeedWords len (i + 1) (mtSeedNext last (i + 1))

/-- Seeding gives as many words as asked for. -/
theorem mtSeedWords_length (len i : Nat) (last : Word) : (mtSeedWords len i last).length = len := by
  induction len generalizing i last with
  | zero => rfl
  | succ len ih => simp [mtSeedWords, ih]

/-- The state words seeding makes: `MT[0] = seed` and the recurrence after it (41_prng.md R132). -/
def mtSeed (seed : Word) : Vector Word Config.mtWords :=
  ⟨(mtSeedWords Config.mtWords 0 seed).toArray, by simp [mtSeedWords_length]⟩

/-- `MT[k mod 624]`. -/
def mtGet (mt : Vector Word Config.mtWords) (k : Nat) : Word :=
  mt[k % Config.mtWords]'(Nat.mod_lt _ (by decide))

/-- The new word at index `k` of a regeneration, computed from the words as they stand (41_prng.md R133). -/
def mtTwistWord (mt : Vector Word Config.mtWords) (k : Nat) : Word :=
  let y := (mtGet mt k &&& mtUpper) ||| (mtGet mt (k + 1) &&& mtLower)
  mtGet mt (k + mtMiddle) ^^^ (y >>> 1) ^^^ (if y.getLsbD 0 then mtMatrixA else 0)

/-- The first `k` steps of a regeneration, in place and in increasing index (41_prng.md R133). -/
def mtTwistTo (mt : Vector Word Config.mtWords) : Nat → Vector Word Config.mtWords
  | 0 => mt
  | k + 1 =>
    let done := mtTwistTo mt k
    done.set (k % Config.mtWords) (mtTwistWord done k) (Nat.mod_lt _ (by decide))

/-- The whole regeneration (41_prng.md R133). -/
def mtRegenerate (mt : Vector Word Config.mtWords) : Vector Word Config.mtWords :=
  mtTwistTo mt Config.mtWords

/-- The output transform (41_prng.md R134). -/
def mtTemper (y0 : Word) : Word :=
  let y1 := y0 ^^^ (y0 >>> 11)
  let y2 := y1 ^^^ ((y1 <<< 7) &&& 0x9D2C5680)
  let y3 := y2 ^^^ ((y2 <<< 15) &&& 0xEFC60000)
  y3 ^^^ (y3 >>> 18)

/-- The words and `MTI` right after seeding (41_prng.md R132). -/
def mtStart (seed : Word) : Vector Word Config.mtWords × Fin (Config.mtWords + 1) :=
  (mtSeed seed, Fin.last Config.mtWords)

/-- The output at index `i` of words that need no regeneration first; `MTI` moves one on (41_prng.md R134). -/
def mtTake (mt : Vector Word Config.mtWords) (i : Fin Config.mtWords) :
    Word × Vector Word Config.mtWords × Fin (Config.mtWords + 1) :=
  (mtTemper (mt.get i), mt, i.succ)

/-- `mt_output()`: the next output, regenerating first when `MTI = 624` (41_prng.md R134). -/
def mtOutput (mt : Vector Word Config.mtWords) (mti : Fin (Config.mtWords + 1)) :
    Word × Vector Word Config.mtWords × Fin (Config.mtWords + 1) :=
  if h : mti.val < Config.mtWords then mtTake mt ⟨mti.val, h⟩ else mtTake (mtRegenerate mt) ⟨0, by decide⟩

end Machine

end Sys2Proof
end

