-- ==== Sys2Proof/Config.lean ====
section
/-! DEFINITION. The configuration: the implementation parameters of 00_scope.md R9, which the machine takes as an
argument, with the value KSBC takes for each, and the free values, which stand for what 10_state.md R36 calls
unspecified after SRST or `rst`. A free value is a constant without a body, so no proof can know what it is. -/

namespace Sys2Proof

/-- A value of parameter `PRNG`: an algorithm that yields an infinite stream of outputs from a seed (00_scope.md R9,
41_prng.md R130). Its state is a fixed number of words and an index into them, as MT19937's is (10_state.md R28). -/
structure Generator where
  /-- The number of state words. -/
  words : Nat
  /-- The words and the index right after seeding. -/
  start : Word → Vector Word words × Fin (words + 1)
  /-- The next output, and the words and the index after it. -/
  next : Vector Word words → Fin (words + 1) → Word × Vector Word words × Fin (words + 1)

/-- The implementation parameters of 00_scope.md R9 that the command format does not fix. The two it fixes, `XLEN` and
`CW`, are widths of fields: Sys2Proof/Word.lean. -/
structure Parameters where
  /-- `NB`: the number of bit containers. -/
  nb : Nat
  /-- `BCAP`: the capacity of each container in bits. -/
  bcap : Nat
  /-- `BLOCK_BITS`: bits per storage block of a container; unobservable (20_memory.md R52). -/
  blockBits : Nat
  /-- `NS`: the number of samplers. -/
  ns : Nat
  /-- `NCAP`: the capacity of each sampler in members. -/
  ncap : Nat
  /-- `HDR_BITS`: the length of the protocol header; only the host uses it. -/
  hdrBits : Nat
  /-- `PRNG`: the pseudo-random algorithm. -/
  prng : Generator

/-- The constraints 00_scope.md R9 puts on the parameters, `PRNG` apart. -/
def Parameters.legal (P : Parameters) : Bool :=
  decide (1 ≤ P.nb) && decide (P.nb ≤ 16) && decide (32 ≤ P.bcap) && decide (P.bcap ≤ 2 ^ 32 - 1) &&
    decide (P.bcap % P.blockBits = 0) && decide (1 ≤ P.ns) && decide (P.ns ≤ 16) && decide (1 ≤ P.ncap) &&
    decide (P.ncap ≤ 2 ^ 32 - 1)

/-- The number of storage blocks of a container (10_state.md R27). -/
def Parameters.blocks (P : Parameters) : Nat := P.bcap / P.blockBits

namespace Config

/-- KSBC's `NB` (00_scope.md R9). -/
abbrev nb : Nat := 2

/-- KSBC's `BCAP` (00_scope.md R9). -/
def bcap : Nat := 65536

/-- KSBC's `BLOCK_BITS` (00_scope.md R9). -/
def blockBits : Nat := 32

/-- KSBC's `NS` (00_scope.md R9). -/
abbrev ns : Nat := 2

/-- KSBC's `NCAP` (00_scope.md R9). -/
def ncap : Nat := 65536

/-- KSBC's `HDR_BITS` (00_scope.md R9). -/
def hdrBits : Nat := 32

/-- KSBC's `PRNG`: MT19937 (00_scope.md R9, 41_prng.md R131). -/
abbrev mt19937 : Generator where
  words := mtWords
  start := Machine.mtStart
  next := Machine.mtOutput

/-- The configuration KSBC takes (00_scope.md R9). -/
abbrev ksbc : Parameters where
  nb := nb
  bcap := bcap
  blockBits := blockBits
  ns := ns
  ncap := ncap
  hdrBits := hdrBits
  prng := mt19937

/-- Free value: the state words of the source after restart number `k` (10_state.md R36, 60_exceptions.md R220; log 5). -/
opaque unspecifiedMt (words k : Nat) : Vector Word words

/-- Free value: `MTI` after restart number `k` (10_state.md R36; log 5). -/
opaque unspecifiedMti (words k : Nat) : Fin (words + 1)

/-- Free value: `W[s]` after restart number `k` (10_state.md R36; log 5). -/
opaque unspecifiedWidth (k s : Nat) : Component

/-- Free value: `H[s]` after restart number `k` (10_state.md R36; log 5). -/
opaque unspecifiedHeight (k s : Nat) : Component

/-- Free value: `T[s]` after restart number `k` (10_state.md R36; log 5). -/
opaque unspecifiedTree (k s : Nat) : CoordTree

/-- Free value: `COUNT[s]` after restart number `k` (10_state.md R36; log 5). -/
opaque unspecifiedCount (k s : Nat) : Nat

end Config

end Sys2Proof
end

