-- ==== Sys2Proof/Machine/State.lean ====
section
/-! DEFINITION. The state of one KSBC instance (10_state.md R20) as plain data, the statuses, the reasons a step
of the model can stop, and the state right after reset (10_state.md R36). -/

namespace Sys2Proof.Machine

/-- The ten ways a command ends (60_exceptions.md R210, R211). -/
inductive Status where
  | ok | illegalCommand | badOperand | notSeeded | notInit | cursorInvalid | payloadTooLarge | nodeFull
  | indexRange | containerFull
deriving DecidableEq, Repr

/-- Why a step of the model stops. No behaviour of KSBC itself is a fault: every error of the block is a
synchronous status and a next state (93_implementation_defined.md, introduction). -/
inductive Fault where
  /-- Raised by SGEN and SEXT exactly where the rejection loop never ends and the command never responds
  (70_reset_and_hazards.md R252; 93_implementation_defined.md U11 "stuck"). SAFE: the hardware gives no response
  either. The host's recourse, `rst`, is the event `HostEvent.reset` (log 6). -/
  | neverResponds
  /-- Raised by SNEXT in a state that no run reaches: the cursor is open, differs from COUNT, and is no position of
  the traversal, against 10_state.md R30 items 3 and 7. SAFE: the model stops where the spec says nothing (log 9). -/
  | cursorOutsideTree
deriving DecidableEq, Repr

/-- Why the model has no meaning for a command. -/
inductive Refusal where
  /-- Raised by `exec`'s arm of a command that has no meaning yet. SAFE: nothing can be proved about it. No arm of
  this model raises it. -/
  | notModelled (mnemonic : String)
deriving DecidableEq, Repr

/-- The traversal cursor `CUR[s]`: closed, or the number of the next element (10_state.md R33). -/
inductive Cursor where
  | invalid
  | position (k : Nat)
deriving DecidableEq, Repr

/-- The pseudo-random source: `SEEDED`, `DRAWS`, and `MT` and `MTI`, which are the state of the algorithm named by
parameter `PRNG` (10_state.md R28). -/
structure Prng (G : Generator) where
  seeded : Bool
  mt : Vector Word G.words
  mti : Fin (G.words + 1)
  draws : BitVec 32
deriving DecidableEq, Repr

/-- One sampler: `VALID`, `W`, `H`, `T`, `COUNT`, `CUR` (10_state.md R29). -/
structure Sampler where
  valid : Bool
  width : Component
  height : Component
  tree : CoordTree
  count : Nat
  cursor : Cursor
deriving DecidableEq, Repr

/-- What the host does at the interface (30_encoding.md R70): it presents a command word, or asserts `rst`, perhaps
while a command is in flight, which is then abandoned (70_reset_and_hazards.md R242). -/
inductive HostEvent where
  | command (w : Word64)
  | reset (abandoned : Option Word64)
deriving DecidableEq, Repr

/-- The complete state of one instance (10_state.md R20) under a configuration, KSBC's own where none is named
(00_scope.md R9: "A model takes these as configuration arguments"), and three fields of the model's own: `host`, the
host's events still to come (log 1); `responses`, the response words delivered (log 2); `freeIndex`, which free
values come next (log 5). -/
structure State (P : Parameters := Config.ksbc) where
  /-- The content of each container, index 0 first; `LEN[b]` is its length (10_state.md R26; log 7). -/
  containers : Vector (List Bool) P.nb
  prng : Prng P.prng
  samplers : Vector Sampler P.ns
  /-- The error summary register (10_state.md R24). -/
  esr : BitVec 16
  host : List HostEvent
  responses : List Word64
  freeIndex : Nat
deriving DecidableEq, Repr

/-- The pseudo-random source after reset: unseeded, no draws (10_state.md R36). The words of `MT` and `MTI` are
unspecified there: zero is this model's value (DESIGN CHOICE, log 4). -/
def Prng.reset {G : Generator} : Prng G where
  seeded := false
  mt := Vector.replicate G.words 0
  mti := 0
  draws := 0

/-- A sampler after reset: not valid, cursor closed (10_state.md R36). `W`, `H`, `T`, `COUNT` are unspecified there:
zero and `Nil` are this model's values (DESIGN CHOICE, log 4). -/
def Sampler.reset : Sampler where
  valid := false
  width := 0
  height := 0
  tree := .nil
  count := 0
  cursor := .invalid

/-- The machine right after hardware reset (10_state.md R36) under a configuration, with no event of the host yet. -/
def State.resetAt (P : Parameters) : State P where
  containers := Vector.replicate P.nb []
  prng := Prng.reset
  samplers := Vector.replicate P.ns Sampler.reset
  esr := 0
  host := []
  responses := []
  freeIndex := 0

/-- KSBC right after hardware reset (10_state.md R36). -/
def State.reset : State := State.resetAt Config.ksbc

end Sys2Proof.Machine
end

