-- ==== Sys2Proof/Machine/Flags.lean ====
section
/-! DEFINITION. Status codes, the response word and the bits of `ESR` (60_exceptions.md R211, R213;
30_encoding.md R73, R74; 10_state.md R24). KSBC keeps no condition codes: FLAG is part of a response only
(10_state.md R23). -/

namespace Sys2Proof.Machine

/-- The number of a status (60_exceptions.md R211). -/
def Status.code : Status → Nat
  | .ok => 0
  | .illegalCommand => 1
  | .badOperand => 2
  | .notSeeded => 3
  | .notInit => 4
  | .cursorInvalid => 5
  | .payloadTooLarge => 6
  | .nodeFull => 7
  | .indexRange => 8
  | .containerFull => 9

/-- The response word: STATUS 63:56, zero 55:33, FLAG 32, DATA 31:0 (30_encoding.md R73). -/
def responseWord (st : Status) (flag : Bool) (data : Word) : Word64 :=
  BitVec.ofNat 8 st.code ++ (0 : BitVec 23) ++ BitVec.ofBool flag ++ data

/-- `ESR` with the bit of a status set (10_state.md R24). OK is never recorded: bit 0 reads 0. -/
def esrWith (esr : BitVec 16) (st : Status) : BitVec 16 :=
  match st with
  | .ok => esr
  | _ => esr ||| (1 : BitVec 16) <<< st.code

end Sys2Proof.Machine
end

