-- ==== Sys2Proof/Machine/Avl.lean ====
section
/-! DEFINITION. The tree algorithms of the sampler (00_scope.md R14; 42_sampler.md R152 to R157): height,
pre-order, membership, rotations, rebalancing, insertion. -/

namespace Sys2Proof.Machine

/-- The height of a tree (00_scope.md R14). -/
def height : CoordTree → Nat
  | .nil => 0
  | .node l _ r => 1 + max (height l) (height r)

/-- The pre-order sequence: the traversal order (00_scope.md R14, 42_sampler.md R170). -/
def preorder : CoordTree → List Coord
  | .nil => []
  | .node l k r => k :: (preorder l ++ preorder r)

/-- The membership test (42_sampler.md R152). -/
def find : CoordTree → Coord → Bool
  | .nil, _ => false
  | .node l k r, c => if c = k then true else if c.lt k then find l c else find r c

/-- The height of a tree's left subtree. -/
def leftHeight : CoordTree → Nat
  | .nil => 0
  | .node l _ _ => height l

/-- The height of a tree's right subtree. -/
def rightHeight : CoordTree → Nat
  | .nil => 0
  | .node _ _ r => height r

/-- Right rotation (42_sampler.md R154); a tree without a left child, where it is not defined and never used, stays. -/
def rotR : CoordTree → CoordTree
  | .node (.node a p b) q c => .node a p (.node b q c)
  | t => t

/-- Left rotation (42_sampler.md R155); a tree without a right child, where it is not defined and never used, stays. -/
def rotL : CoordTree → CoordTree
  | .node a p (.node b q c) => .node (.node a p b) q c
  | t => t

/-- The balance factor, a signed mathematical integer (42_sampler.md R157). -/
def balanceFactor (t : CoordTree) : Int := (leftHeight t : Int) - (rightHeight t : Int)

/-- Rebalancing of the node with subtrees `l`, `r` and key `k` (42_sampler.md R157). -/
def rebalance (l : CoordTree) (k : Coord) (r : CoordTree) : CoordTree :=
  let t := CoordTree.node l k r
  if balanceFactor t = 2 then
    if leftHeight l ≥ rightHeight l then rotR t else rotR (.node (rotL l) k r)
  else if balanceFactor t = -2 then
    if rightHeight r ≥ leftHeight r then rotL t else rotL (.node l k (rotR r))
  else t

/-- Insertion: the new tree, and whether it grew (42_sampler.md R156). -/
def ins : CoordTree → Coord → CoordTree × Bool
  | .nil, c => (.node .nil c .nil, true)
  | .node l k r, c =>
    if c = k then (.node l k r, false)
    else if c.lt k then
      match ins l c with
      | (l', true) => (rebalance l' k r, true)
      | (_, false) => (.node l k r, false)
    else
      match ins r c with
      | (r', true) => (rebalance l k r', true)
      | (_, false) => (.node l k r, false)

end Sys2Proof.Machine
end

