-- ==== Sys2Proof/Machine/Stream.lean ====
section
/-! DEFINITION. The pseudo-random source over the algorithm that parameter `PRNG` names (41_prng.md R135, R137). -/

namespace Sys2Proof.Machine

/-- Seeding the source: PSEED's effect (41_prng.md R132, R137). -/
def Prng.seed {G : Generator} (seed : Word) : Prng G where
  seeded := true
  mt := (G.start seed).1
  mti := (G.start seed).2
  draws := 0

/-- `prng_next()`: the next output of the algorithm; `DRAWS` counts it (41_prng.md R135). -/
def Prng.draw {G : Generator} (p : Prng G) : Word × Prng G :=
  let o := G.next p.mt p.mti
  (o.1, { p with mt := o.2.1, mti := o.2.2, draws := p.draws + 1 })

end Sys2Proof.Machine
end

