-- ==== Sys2Proof/Machine/Grow.lean ====
section
/-! DEFINITION. The rejection-sampling loop of SGEN and SEXT (42_sampler.md R160), run under fuel
(70_reset_and_hazards.md R252). -/

namespace Sys2Proof.Machine

/-- What the loop reads and writes: the pseudo-random source, the tree and its count (42_sampler.md R160). -/
structure Growth (G : Generator) where
  prng : Prng G
  tree : CoordTree
  count : Nat
deriving DecidableEq, Repr

/-- A draw reduced modulo a side of the domain (00_scope.md R16 item 1). A side is never 0 where a draw is
made (item 8). -/
def reduceDraw (v : Word) (side : Component) : Component :=
  BitVec.ofNat 16 (v.toNat % side.toNat)

/-- One candidate: `x` drawn first, then `y`; a new coordinate is inserted, a member is rejected and only the two
draws are spent (42_sampler.md R160). -/
def Growth.candidate {G : Generator} (width height : Component) (g : Growth G) : Growth G :=
  let x := g.prng.draw
  let y := x.2.draw
  match ins g.tree ⟨reduceDraw x.1 width, reduceDraw y.1 height⟩ with
  | (t, true) => { prng := y.2, tree := t, count := g.count + 1 }
  | (_, false) => { g with prng := y.2 }

/-- The loop under fuel: candidates while `COUNT < target`; `none` when the fuel runs out (42_sampler.md R160). -/
def growLoop {G : Generator} (width height : Component) (target : Nat) : Nat → Growth G → Option (Growth G)
  | 0, _ => none
  | fuel + 1, g =>
    if g.count < target then growLoop width height target fuel (g.candidate width height) else some g

/-- The number of states of an algorithm that matter to its outputs: its words and its index (10_state.md R28; for
MT19937 624 words of 32 bits and an index 0..624). -/
def prngStates (G : Generator) : Nat := 2 ^ (Config.xlen * G.words) * (G.words + 1)

/-- The fuel of the loop. It is no approximation: when a tree has rejected as many candidates in a row as the source
has states, the source has returned to an earlier state over the same tree, so the loop never ends. At most `NCAP`
members are added, each after fewer rejections than the algorithm has states, and one last test ends the loop. So the fuel runs
out exactly where the loop never ends (70_reset_and_hazards.md R252: "defined exactly when the loop terminates";
log 6). -/
@[irreducible] def growFuel (P : Parameters) : Nat := P.ncap * prngStates P.prng + 1

end Sys2Proof.Machine
end

