-- ==== Sys2Proof/Machine/Operands.lean ====
section
/-! DEFINITION. The operand forms of 30_encoding.md R75: unit numbers, bit counts, domains and coordinates
checked against their legal ranges, and the conversions between integers and bit sequences, most
significant bit first (20_memory.md R55). -/

namespace Sys2Proof.Machine

/-- The container a unit field names, if it exists (40_bitcontainer.md R100). -/
def container? (P : Parameters) (b : BitVec 4) : Option (Fin P.nb) :=
  if h : b.toNat < P.nb then some ⟨b.toNat, h⟩ else none

/-- The sampler a unit field names, if it exists (42_sampler.md R150 item 1). -/
def sampler? (P : Parameters) (u : BitVec 4) : Option (Fin P.ns) :=
  if h : u.toNat < P.ns then some ⟨u.toNat, h⟩ else none

/-- A bit count or integer width is legal in 0..32 (30_encoding.md R75). -/
def countOk (n : BitVec 8) : Bool := decide (n.toNat ≤ Config.xlen)

/-- A domain is legal when neither side is 0 (42_sampler.md R151). -/
def domainOk (width height : Component) : Bool := width != 0 && height != 0

/-- The low `n` bits of `v`, most significant first: `v[n-1], ..., v[0]` (40_bitcontainer.md R105). -/
def bitsOf {w : Nat} : Nat → BitVec w → List Bool
  | 0, _ => []
  | n + 1, v => v.getLsbD n :: bitsOf n v

/-- A bit sequence read as an unsigned integer, the first bit the most significant (40_bitcontainer.md R110, R112). -/
def valueOf (bits : List Bool) : Nat := bits.foldl (fun v bit => 2 * v + bit.toNat) 0

end Sys2Proof.Machine
end

