-- ==== Sys2Proof/Machine/Ops.lean ====
section
/-! DEFINITION. The named operations over the state: the response of a command that ends with OK, the error
("taking an exception", 60_exceptions.md R216), the containers, the samplers, the restart of SRST and `rst`,
and the growth shared by SGEN and SEXT. -/

namespace Sys2Proof.Machine

/-- `respond(flag, data)`: the command ends with status OK (00_scope.md R15; 30_encoding.md R73, R74). -/
def State.respond {P : Parameters} (s : State P) (flag : Bool) (data : Word) : State P :=
  { s with responses := s.responses ++ [responseWord .ok flag data] }

/-- `raise <STATUS>`: the command ends with an error. `ESR[k]` is set, the response carries the code with FLAG 0 and
DATA 0, and no other element changes (60_exceptions.md R213, R216). There is no return beside it: nothing is saved,
nothing is restored, and the next command runs as always (60_exceptions.md R217). -/
def State.raise {P : Parameters} (s : State P) (st : Status) : State P :=
  { s with esr := esrWith s.esr st, responses := s.responses ++ [responseWord st false 0] }

/-- The content of container `b` (10_state.md R26). -/
def State.container {P : Parameters} (s : State P) (b : Fin P.nb) : List Bool := s.containers[b]

/-- Container `b` given a new content; every other container stays. -/
def State.setContainer {P : Parameters} (s : State P) (b : Fin P.nb) (bits : List Bool) : State P :=
  { s with containers := s.containers.set b bits }

/-- Sampler `u` (10_state.md R29). -/
def State.sampler {P : Parameters} (s : State P) (u : Fin P.ns) : Sampler := s.samplers[u]

/-- Sampler `u` given new contents; every other sampler stays. -/
def State.setSampler {P : Parameters} (s : State P) (u : Fin P.ns) (g : Sampler) : State P :=
  { s with samplers := s.samplers.set u g }

/-- The capacity check of an append, and the append (40_bitcontainer.md R101): all the bits or none. -/
def State.append {P : Parameters} (s : State P) (b : Fin P.nb) (bits : List Bool) : State P :=
  if (s.container b).length + bits.length > P.bcap then s.raise .containerFull
  else (s.setContainer b (s.container b ++ bits)).respond false 0

/-- A sampler after restart number `k`: not valid, cursor closed, the rest unspecified (10_state.md R36; log 5). -/
def Sampler.restarted (k s : Nat) : Sampler where
  valid := false
  width := Config.unspecifiedWidth k s
  height := Config.unspecifiedHeight k s
  tree := Config.unspecifiedTree k s
  count := Config.unspecifiedCount k s
  cursor := .invalid

/-- The pseudo-random source after restart number `k`: unseeded, no draws, the rest unspecified (10_state.md R36; log 5). -/
def Prng.restarted {G : Generator} (k : Nat) : Prng G where
  seeded := false
  mt := Config.unspecifiedMt G.words k
  mti := Config.unspecifiedMti G.words k
  draws := 0

/-- What SRST and `rst` do to the block: the reset state of 10_state.md R36 in every element it specifies; what it
calls unspecified is a free value (60_exceptions.md R220, 70_reset_and_hazards.md R240; log 5). -/
def State.restart {P : Parameters} (s : State P) : State P :=
  { s with
    containers := Vector.replicate P.nb []
    prng := Prng.restarted s.freeIndex
    samplers := Vector.ofFn fun u : Fin P.ns => Sampler.restarted s.freeIndex u.val
    esr := 0
    freeIndex := s.freeIndex + 1 }

/-- The part of the state the rejection loop works on (42_sampler.md R160). -/
def State.growth {P : Parameters} (s : State P) (u : Fin P.ns) : Growth P.prng where
  prng := s.prng
  tree := (s.sampler u).tree
  count := (s.sampler u).count

/-- The state after the loop has ended: the source, the tree and the count as it left them, the cursor closed, the
response given (42_sampler.md R161, R162, R169). -/
def State.grown {P : Parameters} (s : State P) (u : Fin P.ns) (g : Growth P.prng) : State P :=
  (({ s with prng := g.prng }).setSampler u
    { s.sampler u with tree := g.tree, count := g.count, cursor := .invalid }).respond false 0

/-- SGEN and SEXT once unit, seeding and validity are checked: the capacity checks of 42_sampler.md R159, then the loop
of R160. -/
def State.growTo {P : Parameters} (s : State P) (u : Fin P.ns) (target : Nat) : Host.Outcome (State P) Fault Refusal :=
  if target > (s.sampler u).width.toNat * (s.sampler u).height.toNat then .next (s.raise .payloadTooLarge)
  else if target > P.ncap then .next (s.raise .nodeFull)
  else
    match growLoop (s.sampler u).width (s.sampler u).height target (growFuel P) (s.growth u) with
    | some g => .next (s.grown u g)
    | none => .fault .neverResponds

end Sys2Proof.Machine
end

