-- ==== Sys2Proof/Machine/Container.lean ====
section
/-! DEFINITION. The bit container commands (40_bitcontainer.md R100 to R114). Every command first checks that its
container exists (R100). -/

namespace Sys2Proof.Machine

/-- BCLR (40_bitcontainer.md R103). -/
def execBclr {P : Parameters} (b : BitVec 4) (s : State P) :
    Host.Outcome (State P) Fault Refusal :=
  match container? P b with
  | none => .next (s.raise .badOperand)
  | some c => .next ((s.setContainer c []).respond false 0)

/-- BPUSH (40_bitcontainer.md R104). -/
def execBpush {P : Parameters} (b : BitVec 4) (bit : Bool) (s : State P) :
    Host.Outcome (State P) Fault Refusal :=
  match container? P b with
  | none => .next (s.raise .badOperand)
  | some c => .next (s.append c [bit])

/-- BPUSHV (40_bitcontainer.md R105). -/
def execBpushv {P : Parameters} (b : BitVec 4) (nBits : BitVec 8) (value : Word) (s : State P) :
    Host.Outcome (State P) Fault Refusal :=
  match container? P b, countOk nBits with
  | some c, true => .next (s.append c (bitsOf nBits.toNat value))
  | _, _ => .next (s.raise .badOperand)

/-- BPUT: bit 7 first (40_bitcontainer.md R106). -/
def execBput {P : Parameters} (b : BitVec 4) (byte : Byte) (s : State P) :
    Host.Outcome (State P) Fault Refusal :=
  match container? P b with
  | none => .next (s.raise .badOperand)
  | some c => .next (s.append c (bitsOf 8 byte))

/-- BRD (40_bitcontainer.md R107; index check R102). -/
def execBrd {P : Parameters} (b : BitVec 4) (index : Word) (s : State P) :
    Host.Outcome (State P) Fault Refusal :=
  match container? P b with
  | none => .next (s.raise .badOperand)
  | some c =>
    match (s.container c)[index.toNat]? with
    | none => .next (s.raise .indexRange)
    | some bit => .next (s.respond bit 0)

/-- BWR: never extends the container (40_bitcontainer.md R108; index check R102). -/
def execBwr {P : Parameters} (b : BitVec 4) (bit : Bool) (index : Word) (s : State P) :
    Host.Outcome (State P) Fault Refusal :=
  match container? P b with
  | none => .next (s.raise .badOperand)
  | some c =>
    if index.toNat ≥ (s.container c).length then .next (s.raise .indexRange)
    else .next ((s.setContainer c ((s.container c).set index.toNat bit)).respond false 0)

/-- BSIZE (40_bitcontainer.md R109). -/
def execBsize {P : Parameters} (b : BitVec 4) (s : State P) :
    Host.Outcome (State P) Fault Refusal :=
  match container? P b with
  | none => .next (s.raise .badOperand)
  | some c => .next (s.respond false (BitVec.ofNat 32 (s.container c).length))

/-- BEMPTY (40_bitcontainer.md R114). -/
def execBempty {P : Parameters} (b : BitVec 4) (s : State P) :
    Host.Outcome (State P) Fault Refusal :=
  match container? P b with
  | none => .next (s.raise .badOperand)
  | some c => .next (s.respond (s.container c).isEmpty 0)

/-- BTOINT: at most 32 bits (40_bitcontainer.md R110). -/
def execBtoint {P : Parameters} (b : BitVec 4) (s : State P) :
    Host.Outcome (State P) Fault Refusal :=
  match container? P b with
  | none => .next (s.raise .badOperand)
  | some c =>
    if (s.container c).length > Config.xlen then .next (s.raise .indexRange)
    else .next (s.respond false (BitVec.ofNat 32 (valueOf (s.container c))))

/-- BFROMINT: the old content is discarded (40_bitcontainer.md R111). -/
def execBfromint {P : Parameters} (b : BitVec 4) (width : BitVec 8) (value : Word) (s : State P) :
    Host.Outcome (State P) Fault Refusal :=
  match container? P b, countOk width with
  | some c, true => .next ((s.setContainer c (bitsOf width.toNat value)).respond false 0)
  | _, _ => .next (s.raise .badOperand)

/-- BRDBYTE: whole bytes only, the check exact (40_bitcontainer.md R112; 00_scope.md R16 item 4). -/
def execBrdbyte {P : Parameters} (b : BitVec 4) (k : Word) (s : State P) :
    Host.Outcome (State P) Fault Refusal :=
  match container? P b with
  | none => .next (s.raise .badOperand)
  | some c =>
    if 8 * k.toNat + 8 > (s.container c).length then .next (s.raise .indexRange)
    else .next (s.respond false (BitVec.ofNat 32 (valueOf (((s.container c).drop (8 * k.toNat)).take 8))))

/-- BEQ: same length and same bits (40_bitcontainer.md R113). -/
def execBeq {P : Parameters} (b c : BitVec 4) (s : State P) :
    Host.Outcome (State P) Fault Refusal :=
  match container? P b, container? P c with
  | some i, some j => .next (s.respond (s.container i == s.container j) 0)
  | _, _ => .next (s.raise .badOperand)

end Sys2Proof.Machine
end

