-- ==== Sys2Proof/Machine/Sampling.lean ====
section
/-! DEFINITION. The sampler commands (42_sampler.md R150 to R168). Checks stand in the order of R150: unit and
domain, seeded, sampler exists, cursor open, capacity. -/

namespace Sys2Proof.Machine

/-- SINIT (42_sampler.md R151). -/
def execSinit {P : Parameters} (u : BitVec 4) (width height : Component) (s : State P) :
    Host.Outcome (State P) Fault Refusal :=
  match sampler? P u, domainOk width height with
  | some k, true =>
    .next ((s.setSampler k
      { valid := true, width := width, height := height, tree := .nil, count := 0, cursor := .invalid }).respond false 0)
  | _, _ => .next (s.raise .badOperand)

/-- SGEN (42_sampler.md R161). -/
def execSgen {P : Parameters} (u : BitVec 4) (n : Word) (s : State P) :
    Host.Outcome (State P) Fault Refusal :=
  match sampler? P u with
  | none => .next (s.raise .badOperand)
  | some k =>
    if !s.prng.seeded then .next (s.raise .notSeeded)
    else if !(s.sampler k).valid then .next (s.raise .notInit)
    else s.growTo k n.toNat

/-- SEXT: the target is exact (42_sampler.md R162; 00_scope.md R16 item 3). -/
def execSext {P : Parameters} (u : BitVec 4) (more : Word) (s : State P) :
    Host.Outcome (State P) Fault Refusal :=
  match sampler? P u with
  | none => .next (s.raise .badOperand)
  | some k =>
    if !s.prng.seeded then .next (s.raise .notSeeded)
    else if !(s.sampler k).valid then .next (s.raise .notInit)
    else s.growTo k ((s.sampler k).count + more.toNat)

/-- SFIND: the cursor stays as it is (42_sampler.md R163). -/
def execSfind {P : Parameters} (u : BitVec 4) (x y : Component) (s : State P) :
    Host.Outcome (State P) Fault Refusal :=
  match sampler? P u with
  | none => .next (s.raise .badOperand)
  | some k =>
    if !(s.sampler k).valid then .next (s.raise .notInit)
    else .next (s.respond (find (s.sampler k).tree ⟨x, y⟩) 0)

/-- SCOPY: the destination becomes the source with its cursor closed; the copy is structural (42_sampler.md R165). -/
def execScopy {P : Parameters} (d u : BitVec 4) (s : State P) :
    Host.Outcome (State P) Fault Refusal :=
  match sampler? P d, sampler? P u with
  | some i, some j =>
    if !(s.sampler j).valid then .next (s.raise .notInit)
    else .next ((s.setSampler i { s.sampler j with valid := true, cursor := .invalid }).respond false 0)
  | _, _ => .next (s.raise .badOperand)

/-- SSIZE (42_sampler.md R164). -/
def execSsize {P : Parameters} (u : BitVec 4) (s : State P) :
    Host.Outcome (State P) Fault Refusal :=
  match sampler? P u with
  | none => .next (s.raise .badOperand)
  | some k =>
    if !(s.sampler k).valid then .next (s.raise .notInit)
    else .next (s.respond false (BitVec.ofNat 32 (s.sampler k).count))

/-- SBEGIN (42_sampler.md R167). -/
def execSbegin {P : Parameters} (u : BitVec 4) (s : State P) :
    Host.Outcome (State P) Fault Refusal :=
  match sampler? P u with
  | none => .next (s.raise .badOperand)
  | some k =>
    if !(s.sampler k).valid then .next (s.raise .notInit)
    else
      .next ((s.setSampler k { s.sampler k with cursor := .position 0 }).respond ((s.sampler k).count == 0) 0)

/-- SNEXT (42_sampler.md R168). An open cursor that is neither at the end nor at an element exists in no state a run
reaches (10_state.md R30 items 3 and 7): there the model stops (log 9). -/
def execSnext {P : Parameters} (u : BitVec 4) (s : State P) :
    Host.Outcome (State P) Fault Refusal :=
  match sampler? P u with
  | none => .next (s.raise .badOperand)
  | some k =>
    if !(s.sampler k).valid then .next (s.raise .notInit)
    else
      match (s.sampler k).cursor with
      | .invalid => .next (s.raise .cursorInvalid)
      | .position i =>
        if i = (s.sampler k).count then .next (s.respond true 0)
        else
          match (preorder (s.sampler k).tree)[i]? with
          | some c =>
            .next ((s.setSampler k { s.sampler k with cursor := .position (i + 1) }).respond false c.pack)
          | none => .fault .cursorOutsideTree

end Sys2Proof.Machine
end

