-- ==== Sys2Proof/Machine/Source.lean ====
section
/-! DEFINITION. The commands of the pseudo-random source: PSEED, PNEXT, PDRAWS (41_prng.md R137 to R139). -/

namespace Sys2Proof.Machine

/-- PSEED (41_prng.md R137). -/
def execPseed {P : Parameters} (seed : Word) (s : State P) :
    Host.Outcome (State P) Fault Refusal :=
  .next ({ s with prng := Prng.seed seed }.respond false 0)

/-- PNEXT (41_prng.md R138). -/
def execPnext {P : Parameters} (s : State P) :
    Host.Outcome (State P) Fault Refusal :=
  if !s.prng.seeded then .next (s.raise .notSeeded)
  else .next ({ s with prng := s.prng.draw.2 }.respond false s.prng.draw.1)

/-- PDRAWS, seeded or not (41_prng.md R139). -/
def execPdraws {P : Parameters} (s : State P) :
    Host.Outcome (State P) Fault Refusal :=
  .next (s.respond false s.prng.draws)

end Sys2Proof.Machine
end

