-- ==== Sys2Proof/Machine/System.lean ====
section
/-! DEFINITION. The system commands SRST, RDESR, CLRESR (60_exceptions.md R218 to R220). -/

namespace Sys2Proof.Machine

/-- SRST (60_exceptions.md R220). -/
def execSrst {P : Parameters} (s : State P) :
    Host.Outcome (State P) Fault Refusal :=
  .next (s.restart.respond false 0)

/-- RDESR (60_exceptions.md R218). -/
def execRdesr {P : Parameters} (s : State P) :
    Host.Outcome (State P) Fault Refusal :=
  .next (s.respond false (s.esr.setWidth 32))

/-- CLRESR (60_exceptions.md R219). -/
def execClresr {P : Parameters} (s : State P) :
    Host.Outcome (State P) Fault Refusal :=
  .next ({ s with esr := 0 }.respond false 0)

end Sys2Proof.Machine
end

