-- ==== Sys2Proof/Syntax.lean ====
section
/-! DEFINITION. The commands of KSBC: one constructor for each of the 26 rows of 30_encoding.md R78, its
fields the operands of the row at the widths of the command word (30_encoding.md R71, R75). -/

namespace Sys2Proof

/-- A command. A unit number is the 4-bit field as it stands in the word: whether such a unit exists is a
check of values, not of spelling (30_encoding.md R76). -/
inductive Instr where
  /-- SRST, 0x01 (60_exceptions.md R220). -/
  | srst
  /-- RDESR, 0x02 (60_exceptions.md R218). -/
  | rdesr
  /-- CLRESR, 0x03 (60_exceptions.md R219). -/
  | clresr
  /-- PSEED seed, 0x10 (41_prng.md R137). -/
  | pseed (seed : Word)
  /-- PNEXT, 0x11 (41_prng.md R138). -/
  | pnext
  /-- PDRAWS, 0x12 (41_prng.md R139). -/
  | pdraws
  /-- BCLR b, 0x20 (40_bitcontainer.md R103). -/
  | bclr (b : BitVec 4)
  /-- BPUSH b, bit, 0x21 (40_bitcontainer.md R104). -/
  | bpush (b : BitVec 4) (bit : Bool)
  /-- BPUSHV b, nBits, value, 0x22 (40_bitcontainer.md R105). -/
  | bpushv (b : BitVec 4) (nBits : BitVec 8) (value : Word)
  /-- BPUT b, byte, 0x23 (40_bitcontainer.md R106). -/
  | bput (b : BitVec 4) (byte : Byte)
  /-- BRD b, index, 0x24 (40_bitcontainer.md R107). -/
  | brd (b : BitVec 4) (index : Word)
  /-- BWR b, bit, index, 0x25 (40_bitcontainer.md R108). -/
  | bwr (b : BitVec 4) (bit : Bool) (index : Word)
  /-- BSIZE b, 0x26 (40_bitcontainer.md R109). -/
  | bsize (b : BitVec 4)
  /-- BEMPTY b, 0x27 (40_bitcontainer.md R114). -/
  | bempty (b : BitVec 4)
  /-- BTOINT b, 0x28 (40_bitcontainer.md R110). -/
  | btoint (b : BitVec 4)
  /-- BFROMINT b, width, value, 0x29 (40_bitcontainer.md R111). -/
  | bfromint (b : BitVec 4) (width : BitVec 8) (value : Word)
  /-- BRDBYTE b, k, 0x2A (40_bitcontainer.md R112). -/
  | brdbyte (b : BitVec 4) (k : Word)
  /-- BEQ b, c, 0x2B (40_bitcontainer.md R113). -/
  | beq (b c : BitVec 4)
  /-- SINIT u, width, height, 0x30 (42_sampler.md R151). -/
  | sinit (u : BitVec 4) (width height : Component)
  /-- SGEN u, n, 0x31 (42_sampler.md R161). -/
  | sgen (u : BitVec 4) (n : Word)
  /-- SEXT u, by, 0x32 (42_sampler.md R162). -/
  | sext (u : BitVec 4) (more : Word)
  /-- SFIND u, x, y, 0x33 (42_sampler.md R163). -/
  | sfind (u : BitVec 4) (x y : Component)
  /-- SCOPY d, u, 0x34: destination first (42_sampler.md R165). -/
  | scopy (d u : BitVec 4)
  /-- SSIZE u, 0x35 (42_sampler.md R164). -/
  | ssize (u : BitVec 4)
  /-- SBEGIN u, 0x36 (42_sampler.md R167). -/
  | sbegin (u : BitVec 4)
  /-- SNEXT u, 0x37 (42_sampler.md R168). -/
  | snext (u : BitVec 4)
deriving DecidableEq, Repr

end Sys2Proof
end

