-- ==== Sys2Proof/Machine/Dispatch.lean ====
section
/-! DEFINITION. The dispatch: one arm for each command, each one call of its meaning. -/

namespace Sys2Proof.Machine

/-- The effect of a command on the state (30_encoding.md R78). -/
def exec (i : Instr) (s : State) : Host.Outcome State Fault Refusal :=
  match i with
  | .srst => Sys2Proof.Machine.execSrst s
  | .rdesr => Sys2Proof.Machine.execRdesr s
  | .clresr => Sys2Proof.Machine.execClresr s
  | .pseed seed => Sys2Proof.Machine.execPseed seed s
  | .pnext => Sys2Proof.Machine.execPnext s
  | .pdraws => Sys2Proof.Machine.execPdraws s
  | .bclr b => Sys2Proof.Machine.execBclr b s
  | .bpush b bit => Sys2Proof.Machine.execBpush b bit s
  | .bpushv b nBits value => Sys2Proof.Machine.execBpushv b nBits value s
  | .bput b byte => Sys2Proof.Machine.execBput b byte s
  | .brd b index => Sys2Proof.Machine.execBrd b index s
  | .bwr b bit index => Sys2Proof.Machine.execBwr b bit index s
  | .bsize b => Sys2Proof.Machine.execBsize b s
  | .bempty b => Sys2Proof.Machine.execBempty b s
  | .btoint b => Sys2Proof.Machine.execBtoint b s
  | .bfromint b width value => Sys2Proof.Machine.execBfromint b width value s
  | .brdbyte b k => Sys2Proof.Machine.execBrdbyte b k s
  | .beq b c => Sys2Proof.Machine.execBeq b c s
  | .sinit u width height => Sys2Proof.Machine.execSinit u width height s
  | .sgen u n => Sys2Proof.Machine.execSgen u n s
  | .sext u more => Sys2Proof.Machine.execSext u more s
  | .sfind u x y => Sys2Proof.Machine.execSfind u x y s
  | .scopy d u => Sys2Proof.Machine.execScopy d u s
  | .ssize u => Sys2Proof.Machine.execSsize u s
  | .sbegin u => Sys2Proof.Machine.execSbegin u s
  | .snext u => Sys2Proof.Machine.execSnext u s

end Sys2Proof.Machine
end

