-- ==== Sys2Proof/Decode.lean ====
section
/-! DEFINITION. The command word (30_encoding.md R71), the formats (R72), the opcode map (R78), the decoder
(R76 stage 1, R79) and the encoder (R87). -/

namespace Sys2Proof

/-- The fields of a command word (30_encoding.md R71). -/
structure Fields where
  op : BitVec 8
  u : BitVec 4
  v : BitVec 4
  rsv : BitVec 8
  n : BitVec 8
  imm : Word
deriving DecidableEq, Repr

/-- The fields of a word, at the bit positions of 30_encoding.md R71. -/
def fieldsOf (w : Word64) : Fields where
  op := w.extractLsb' 56 8
  u := w.extractLsb' 52 4
  v := w.extractLsb' 48 4
  rsv := w.extractLsb' 40 8
  n := w.extractLsb' 32 8
  imm := w.extractLsb' 0 32

/-- The word made of an opcode and the operand fields, `RSV` zero (30_encoding.md R87). -/
def wordOf (op : BitVec 8) (u v : BitVec 4) (n : BitVec 8) (imm : Word) : Word64 :=
  op ++ u ++ v ++ (0 : BitVec 8) ++ n ++ imm

/-- The nine formats of 30_encoding.md R72. -/
inductive Format where
  | z | i | u | ub | un | uni | ubi | ui | uv
deriving DecidableEq, Repr

/-- The fields a format lists as "must be zero" are zero, `RSV` apart (30_encoding.md R72). -/
def Format.unusedZero : Format → Fields → Bool
  | .z, f => f.u == 0 && f.v == 0 && f.n == 0 && f.imm == 0
  | .i, f => f.u == 0 && f.v == 0 && f.n == 0
  | .u, f => f.v == 0 && f.n == 0 && f.imm == 0
  | .ub, f => f.v == 0 && f.n.extractLsb' 1 7 == 0 && f.imm == 0
  | .un, f => f.v == 0 && f.imm == 0
  | .uni, f => f.v == 0
  | .ubi, f => f.v == 0 && f.n.extractLsb' 1 7 == 0
  | .ui, f => f.v == 0 && f.n == 0
  | .uv, f => f.n == 0 && f.imm == 0

/-- The mask of a format: a 1 in every bit of `OP`, `RSV` and the must-be-zero fields (30_encoding.md R82). -/
def Format.mask : Format → Word64
  | .z => 0xFFFFFFFFFFFFFFFF
  | .i => 0xFFFFFFFF00000000
  | .u => 0xFF0FFFFFFFFFFFFF
  | .ub => 0xFF0FFFFEFFFFFFFF
  | .un => 0xFF0FFF00FFFFFFFF
  | .uni => 0xFF0FFF0000000000
  | .ubi => 0xFF0FFFFE00000000
  | .ui => 0xFF0FFFFF00000000
  | .uv => 0xFF00FFFFFFFFFFFF

/-- One row of the opcode map. -/
structure Row where
  op : BitVec 8
  format : Format
  build : Fields → Instr

/-- The opcode map (30_encoding.md R78), each operand taken from its field as it stands (R75). -/
def rows : List Row :=
  [ ⟨0x01, .z, fun _ => .srst⟩,
    ⟨0x02, .z, fun _ => .rdesr⟩,
    ⟨0x03, .z, fun _ => .clresr⟩,
    ⟨0x10, .i, fun f => .pseed f.imm⟩,
    ⟨0x11, .z, fun _ => .pnext⟩,
    ⟨0x12, .z, fun _ => .pdraws⟩,
    ⟨0x20, .u, fun f => .bclr f.u⟩,
    ⟨0x21, .ub, fun f => .bpush f.u (f.n.getLsbD 0)⟩,
    ⟨0x22, .uni, fun f => .bpushv f.u f.n f.imm⟩,
    ⟨0x23, .un, fun f => .bput f.u f.n⟩,
    ⟨0x24, .ui, fun f => .brd f.u f.imm⟩,
    ⟨0x25, .ubi, fun f => .bwr f.u (f.n.getLsbD 0) f.imm⟩,
    ⟨0x26, .u, fun f => .bsize f.u⟩,
    ⟨0x27, .u, fun f => .bempty f.u⟩,
    ⟨0x28, .u, fun f => .btoint f.u⟩,
    ⟨0x29, .uni, fun f => .bfromint f.u f.n f.imm⟩,
    ⟨0x2A, .ui, fun f => .brdbyte f.u f.imm⟩,
    ⟨0x2B, .uv, fun f => .beq f.u f.v⟩,
    ⟨0x30, .ui, fun f => .sinit f.u (f.imm.extractLsb' 16 16) (f.imm.extractLsb' 0 16)⟩,
    ⟨0x31, .ui, fun f => .sgen f.u f.imm⟩,
    ⟨0x32, .ui, fun f => .sext f.u f.imm⟩,
    ⟨0x33, .ui, fun f => .sfind f.u (f.imm.extractLsb' 16 16) (f.imm.extractLsb' 0 16)⟩,
    ⟨0x34, .uv, fun f => .scopy f.u f.v⟩,
    ⟨0x35, .u, fun f => .ssize f.u⟩,
    ⟨0x36, .u, fun f => .sbegin f.u⟩,
    ⟨0x37, .u, fun f => .snext f.u⟩ ]

/-- Why a word spells no command (30_encoding.md R79). The response is ILLEGAL_COMMAND for each of them. -/
inductive DecodeError where
  /-- `OP` is not one of the 26 values of R78 (R79 (a)). -/
  | unknownOpcode
  /-- `RSV` is not zero (R79 (b)). -/
  | reservedNonzero
  /-- A field the format does not use is not zero (R79 (c)). -/
  | unusedFieldNonzero
deriving DecidableEq, Repr

/-- The row whose opcode a byte is (30_encoding.md R76 stage 1). -/
def row? (op : BitVec 8) : Option Row := rows.find? (fun r => r.op == op)

/-- The decoder, total on all words: the spelling stage of 30_encoding.md R76. -/
def decode (w : Word64) : Except DecodeError Instr :=
  match row? (fieldsOf w).op with
  | none => .error .unknownOpcode
  | some r =>
    if (fieldsOf w).rsv ≠ 0 then .error .reservedNonzero
    else if r.format.unusedZero (fieldsOf w) then .ok (r.build (fieldsOf w))
    else .error .unusedFieldNonzero

/-- The opcode of a command (30_encoding.md R78). -/
def Instr.opcode : Instr → BitVec 8
  | .srst => 0x01
  | .rdesr => 0x02
  | .clresr => 0x03
  | .pseed _ => 0x10
  | .pnext => 0x11
  | .pdraws => 0x12
  | .bclr _ => 0x20
  | .bpush _ _ => 0x21
  | .bpushv _ _ _ => 0x22
  | .bput _ _ => 0x23
  | .brd _ _ => 0x24
  | .bwr _ _ _ => 0x25
  | .bsize _ => 0x26
  | .bempty _ => 0x27
  | .btoint _ => 0x28
  | .bfromint _ _ _ => 0x29
  | .brdbyte _ _ => 0x2A
  | .beq _ _ => 0x2B
  | .sinit _ _ _ => 0x30
  | .sgen _ _ => 0x31
  | .sext _ _ => 0x32
  | .sfind _ _ _ => 0x33
  | .scopy _ _ => 0x34
  | .ssize _ => 0x35
  | .sbegin _ => 0x36
  | .snext _ => 0x37

/-- The format of a command (30_encoding.md R78). -/
def Instr.format : Instr → Format
  | .srst => .z
  | .rdesr => .z
  | .clresr => .z
  | .pseed _ => .i
  | .pnext => .z
  | .pdraws => .z
  | .bclr _ => .u
  | .bpush _ _ => .ub
  | .bpushv _ _ _ => .uni
  | .bput _ _ => .un
  | .brd _ _ => .ui
  | .bwr _ _ _ => .ubi
  | .bsize _ => .u
  | .bempty _ => .u
  | .btoint _ => .u
  | .bfromint _ _ _ => .uni
  | .brdbyte _ _ => .ui
  | .beq _ _ => .uv
  | .sinit _ _ _ => .ui
  | .sgen _ _ => .ui
  | .sext _ _ => .ui
  | .sfind _ _ _ => .ui
  | .scopy _ _ => .uv
  | .ssize _ => .u
  | .sbegin _ => .u
  | .snext _ => .u

/-- A bit operand in `N[0]` (30_encoding.md R75). -/
def bitField (bit : Bool) : BitVec 8 := (BitVec.ofBool bit).setWidth 8

/-- The encoder: the word of a command, unused fields zero (30_encoding.md R87). -/
def encode (i : Instr) : Word64 :=
  match i with
  | .srst => wordOf i.opcode 0 0 0 0
  | .rdesr => wordOf i.opcode 0 0 0 0
  | .clresr => wordOf i.opcode 0 0 0 0
  | .pseed seed => wordOf i.opcode 0 0 0 seed
  | .pnext => wordOf i.opcode 0 0 0 0
  | .pdraws => wordOf i.opcode 0 0 0 0
  | .bclr b => wordOf i.opcode b 0 0 0
  | .bpush b bit => wordOf i.opcode b 0 (bitField bit) 0
  | .bpushv b n value => wordOf i.opcode b 0 n value
  | .bput b byte => wordOf i.opcode b 0 byte 0
  | .brd b index => wordOf i.opcode b 0 0 index
  | .bwr b bit index => wordOf i.opcode b 0 (bitField bit) index
  | .bsize b => wordOf i.opcode b 0 0 0
  | .bempty b => wordOf i.opcode b 0 0 0
  | .btoint b => wordOf i.opcode b 0 0 0
  | .bfromint b n value => wordOf i.opcode b 0 n value
  | .brdbyte b k => wordOf i.opcode b 0 0 k
  | .beq b c => wordOf i.opcode b c 0 0
  | .sinit u w h => wordOf i.opcode u 0 0 (w ++ h)
  | .sgen u n => wordOf i.opcode u 0 0 n
  | .sext u more => wordOf i.opcode u 0 0 more
  | .sfind u x y => wordOf i.opcode u 0 0 (x ++ y)
  | .scopy d u => wordOf i.opcode d u 0 0
  | .ssize u => wordOf i.opcode u 0 0 0
  | .sbegin u => wordOf i.opcode u 0 0 0
  | .snext u => wordOf i.opcode u 0 0 0

/-- The instruction the decoder reads from the bits `w` of an opcode-table row, `nbits` of them, every bit above
zero. A command is one 64-bit word carried whole (20_memory.md R56, 30_encoding.md R81), so its bits are the
word's bits. -/
def decodeTableWord (nbits w : Nat) : Option Instr :=
  (decode (BitVec.ofNat 64 (w % 2 ^ nbits))).toOption

end Sys2Proof
end

