-- ==== Sys2Proof/Machine/Event.lean ====
section
/-! DEFINITION. Taking the host's next event (00_scope.md R19; 20_memory.md R57), shared by the step of KSBC and the
step under any configuration. -/

namespace Sys2Proof.Machine

/-- The next event taken, with `run` for the effect of a command. With no event the machine waits and keeps all state
(60_exceptions.md R230, 70_reset_and_hazards.md R241). `rst` leaves the reset state and gives no response, whatever
command it abandons (R242). A command word is decoded and run; a word that spells no command answers ILLEGAL_COMMAND
(30_encoding.md R79). -/
def takeEvent {P : Parameters} (run : Instr → State P → Host.Outcome (State P) Fault Refusal) (s : State P) :
    Host.Outcome (State P) Fault Refusal :=
  match s.host with
  | [] => .next s
  | .reset _ :: rest => .next { s with host := rest }.restart
  | .command w :: rest =>
    match decode w with
    | .ok i => run i { s with host := rest }
    | .error _ => .next ({ s with host := rest }.raise .illegalCommand)

end Sys2Proof.Machine
end

