-- ==== Sys2Proof/Machine/Step.lean ====
section
/-! DEFINITION. One step: the machine takes the host's next event (00_scope.md R19; 20_memory.md R57). The three
outcomes are `Host.Outcome`'s. -/

namespace Sys2Proof.Machine

/-- One step of KSBC: the host's next event, a command run by its meaning. -/
def step (s : State) : Host.Outcome State Fault Refusal := takeEvent exec s

/-- The state with one command word presented as the host's next event: KSBC fetches nothing (10_state.md R22), so
this is where the next step takes its instruction (log 1). A command is one 64-bit word. -/
def State.withFetchWord (s : State) (nbits w : Nat) : State :=
  { s with host := .command (BitVec.ofNat 64 (w % 2 ^ nbits)) :: s.host }

end Sys2Proof.Machine
end

