-- ==== Sys2Proof/Machine/Assembler.lean ====
section
/-! DEFINITION. The assembler's pseudo-instructions and default operand (30_encoding.md R85, R91, R92), the header and
payload pair (42_sampler.md R166), and a list of commands
run in list order (20_memory.md R57). None of them is a command of its own. -/

namespace Sys2Proof.Machine

/-- `SEXT s` with the operand left out is `SEXT s, 1` (30_encoding.md R85). -/
def sextDefault (u : BitVec 4) : Instr := .sext u 1

/-- `BFROMBYTES b, bytes`: a BCLR, then one BPUT for each byte in order (30_encoding.md R91). -/
def bfrombytes (b : BitVec 4) (bytes : List Byte) : List Instr :=
  .bclr b :: bytes.map fun byte => .bput b byte

/-- `BTOBYTES b` for a container of `len` bits: a BSIZE, then BRDBYTE for each whole byte (30_encoding.md R92). The
length is what BSIZE answers, so the host chooses the list once it has that answer. -/
def btobytes (b : BitVec 4) (len : Nat) : List Instr :=
  .bsize b :: (List.range (len / 8)).map fun k => .brdbyte b (BitVec.ofNat 32 k)

/-- The host's header and payload pair on two samplers: `HDR_BITS` members in the first, a copy, `count` members more in
the copy (42_sampler.md R166, 00_scope.md R9 `HDR_BITS`). -/
def headerPayload (P : Parameters) (header payload : BitVec 4) (count : Word) : List Instr :=
  [.sgen header (BitVec.ofNat 32 P.hdrBits), .scopy payload header, .sext payload count]

/-- Commands run one after another, to the first stop (20_memory.md R57). -/
def execAll : List Instr → State → Host.Outcome State Fault Refusal
  | [], s => .next s
  | i :: rest, s =>
    match exec i s with
    | .next t => execAll rest t
    | .fault f => .fault f
    | .refused r => .refused r

end Sys2Proof.Machine
end

