-- ==== Sys2Proof/Machine/Navigation.lean ====
section
/-! DEFINITION. The navigation form of the traversal (42_sampler.md R171): a node pointer with the path back to the
root. The sampler commands use the pre-order sequence (R170); this is the form for a realisation that keeps a
pointer. -/

namespace Sys2Proof.Machine

/-- One edge of a path, with what stands beside it: the node above and its other subtree. -/
inductive Turn where
  | left (k : Coord) (r : CoordTree)
  | right (l : CoordTree) (k : Coord)
deriving DecidableEq, Repr

/-- A node of a tree, and the edges above it, nearest first. -/
structure Position where
  left : CoordTree
  key : Coord
  right : CoordTree
  path : List Turn
deriving DecidableEq, Repr

/-- The climb from a subtree `c` that has been visited whole (42_sampler.md R171, `loop`). -/
def climb : CoordTree → List Turn → Option Position
  | _, [] => none
  | c, .left k (.node l' k' r') :: path => some ⟨l', k', r', .right c k :: path⟩
  | c, .left k .nil :: path => climb (.node c k .nil) path
  | c, .right l k :: path => climb (.node l k c) path

/-- The node visited after a node, or none at the end (42_sampler.md R171, `next`). -/
def Position.next (p : Position) : Option Position :=
  match p.left, p.right with
  | .node l k r, _ => some ⟨l, k, r, .left p.key p.right :: p.path⟩
  | .nil, .node l k r => some ⟨l, k, r, .right .nil p.key :: p.path⟩
  | .nil, .nil => climb (.node .nil p.key .nil) p.path

/-- The first node visited: the root (42_sampler.md R170, `begin()`). -/
def firstPosition : CoordTree → Option Position
  | .nil => none
  | .node l k r => some ⟨l, k, r, []⟩

/-- The keys met by at most `n` visits from a position. -/
def walk : Nat → Option Position → List Coord
  | 0, _ => []
  | _ + 1, none => []
  | n + 1, some p => p.key :: walk n p.next

end Sys2Proof.Machine
end

