-- ==== Sys2Proof/Machine/Parametric.lean ====
section
/-! DEFINITION. KSBC under any configuration (00_scope.md R9, R19): the effect of a command, and one step, with the
parameters as an argument. `exec` and `step` are these under KSBC's own configuration. -/

namespace Sys2Proof.Machine

/-- The effect of a command under a configuration (30_encoding.md R78). -/
def execAt (P : Parameters) (i : Instr) (s : State P) : Host.Outcome (State P) Fault Refusal :=
  match i with
  | .srst => execSrst s
  | .rdesr => execRdesr s
  | .clresr => execClresr s
  | .pseed seed => execPseed seed s
  | .pnext => execPnext s
  | .pdraws => execPdraws s
  | .bclr b => execBclr b s
  | .bpush b bit => execBpush b bit s
  | .bpushv b nBits value => execBpushv b nBits value s
  | .bput b byte => execBput b byte s
  | .brd b index => execBrd b index s
  | .bwr b bit index => execBwr b bit index s
  | .bsize b => execBsize b s
  | .bempty b => execBempty b s
  | .btoint b => execBtoint b s
  | .bfromint b width value => execBfromint b width value s
  | .brdbyte b k => execBrdbyte b k s
  | .beq b c => execBeq b c s
  | .sinit u width height => execSinit u width height s
  | .sgen u n => execSgen u n s
  | .sext u more => execSext u more s
  | .sfind u x y => execSfind u x y s
  | .scopy d u => execScopy d u s
  | .ssize u => execSsize u s
  | .sbegin u => execSbegin u s
  | .snext u => execSnext u s

/-- One step under a configuration: the host's next event, a command run by its effect. -/
def stepAt (P : Parameters) (s : State P) : Host.Outcome (State P) Fault Refusal := takeEvent (execAt P) s

end Sys2Proof.Machine
end

