-- ==== Sys2Proof/WellFormed.lean ====
section
/-! DEFINITION. Which commands have legal operand values: the second stage of decoding (30_encoding.md R76).
A command that is not well formed is spelled correctly and answers BAD_OPERAND (60_exceptions.md R211). -/

namespace Sys2Proof

open Machine

/-- Every unit number below `NB` or `NS`, every bit count in 0..32, no side of a domain 0
(30_encoding.md R75, R76 stage 2; 60_exceptions.md R211 code 2). -/
def Instr.wellFormedAt (P : Parameters) : Instr → Bool
  | .srst => true
  | .rdesr => true
  | .clresr => true
  | .pseed _ => true
  | .pnext => true
  | .pdraws => true
  | .bclr b => (container? P b).isSome
  | .bpush b _ => (container? P b).isSome
  | .bpushv b n _ => (container? P b).isSome && countOk n
  | .bput b _ => (container? P b).isSome
  | .brd b _ => (container? P b).isSome
  | .bwr b _ _ => (container? P b).isSome
  | .bsize b => (container? P b).isSome
  | .bempty b => (container? P b).isSome
  | .btoint b => (container? P b).isSome
  | .bfromint b n _ => (container? P b).isSome && countOk n
  | .brdbyte b _ => (container? P b).isSome
  | .beq b c => (container? P b).isSome && (container? P c).isSome
  | .sinit u w h => (sampler? P u).isSome && domainOk w h
  | .sgen u _ => (sampler? P u).isSome
  | .sext u _ => (sampler? P u).isSome
  | .sfind u _ _ => (sampler? P u).isSome
  | .scopy d u => (sampler? P d).isSome && (sampler? P u).isSome
  | .ssize u => (sampler? P u).isSome
  | .sbegin u => (sampler? P u).isSome
  | .snext u => (sampler? P u).isSome

/-- Well-formedness under KSBC's configuration. -/
def Instr.wellFormed (i : Instr) : Bool := i.wellFormedAt Config.ksbc

end Sys2Proof
end

