-- ==== Sys2Proof/Safety.lean ====
section
/-! DEFINITION. The terms claims about KSBC are made in: the invariants of the state (10_state.md R24, R27, R30), what a
response says, what a command leaves alone, which error conditions hold, when the rejection loop ends, and which
states no command can tell apart. -/

namespace Sys2Proof.Machine

/-! ## Invariants -/

/-- The bit memory is in form: every container within its capacity (10_state.md R27). -/
abbrev Memory.wf (containers : Vector (List Bool) Config.nb) : Prop :=
  ∀ b : Fin Config.nb, containers[b].length ≤ Config.bcap

/-- A search tree: every key left of a node is less, every key right of it greater (00_scope.md R14). -/
def searchTree : CoordTree → Bool
  | .nil => true
  | .node l k r =>
    (preorder l).all (fun c => c.lt k) && (preorder r).all (fun c => k.lt c) && searchTree l && searchTree r

/-- AVL-balanced: at every node the subtree heights differ by at most 1 (00_scope.md R14). -/
def balanced : CoordTree → Bool
  | .nil => true
  | .node l _ r =>
    decide (height l ≤ height r + 1) && decide (height r ≤ height l + 1) && balanced l && balanced r

/-- A cursor is closed or stands at `0..count` (10_state.md R30 item 7). -/
def Cursor.within : Cursor → Nat → Bool
  | .invalid, _ => true
  | .position k, count => decide (k ≤ count)

/-- A coordinate lies in a domain (10_state.md R30 item 4). -/
def inDomain (c : Coord) (width height : Component) : Bool :=
  decide (c.x.toNat < width.toNat) && decide (c.y.toNat < height.toNat)

/-- What holds of a sampler that exists: a domain without a zero side (10_state.md R20), and items 1 to 5 and 7 of
10_state.md R30. -/
abbrev Sampler.wf (g : Sampler) : Prop :=
  g.valid = true →
    g.width ≠ 0 ∧ g.height ≠ 0 ∧
    searchTree g.tree = true ∧ balanced g.tree = true ∧
    g.count = (preorder g.tree).length ∧
    (preorder g.tree).all (fun c => inDomain c g.width g.height) = true ∧
    g.count ≤ g.width.toNat * g.height.toNat ∧ g.count ≤ Config.ncap ∧
    g.cursor.within g.count = true

/-- A response word the layout allows: STATUS 0 to 9, bits 55:33 zero, FLAG and DATA zero with an error
(30_encoding.md R73, R74 (a)). -/
def legalResponse (r : Word64) : Bool :=
  decide ((r.extractLsb' 56 8).toNat ≤ 9) && r.extractLsb' 33 23 == 0 &&
    (r.extractLsb' 56 8 == 0 || r.extractLsb' 0 33 == 0)

/-- The invariant of the machine: bit memory and samplers in form, the reserved bits of `ESR` 0 (10_state.md R24), and
every response delivered a legal one. -/
abbrev State.wf (s : State) : Prop :=
  Memory.wf s.containers ∧ (∀ u : Fin Config.ns, (s.sampler u).wf) ∧ s.esr &&& 0xFC01 = 0 ∧
    s.responses.all legalResponse = true

/-! ## Responses and frames -/

/-- Exactly one response is added, with this STATUS, FLAG and DATA and with bits 55:33 zero (30_encoding.md R70, R73). -/
def Responds (s t : State) (status : Nat) (flag : Bool) (data : Word) : Prop :=
  ∃ r : Word64, t.responses = s.responses ++ [r] ∧ (r.extractLsb' 56 8).toNat = status ∧ r.extractLsb' 33 23 = 0 ∧
    r.getLsbD 32 = flag ∧ r.extractLsb' 0 32 = data

/-- Nothing but the response changes. -/
def OnlyResponse (s t : State) : Prop := t = { s with responses := t.responses }

/-- Nothing but container `c` and the response changes. -/
def OnlyContainer (s t : State) (c : Fin Config.nb) : Prop :=
  (∀ d, d ≠ c → t.container d = s.container d) ∧
    t = { s with containers := t.containers, responses := t.responses }

/-- Nothing but the pseudo-random source and the response changes. -/
def OnlySource (s t : State) : Prop := t = { s with prng := t.prng, responses := t.responses }

/-- Nothing but sampler `u` and the response changes. -/
def OnlySampler (s t : State) (u : Fin Config.ns) : Prop :=
  (∀ v, v ≠ u → t.sampler v = s.sampler v) ∧
    t = { s with samplers := t.samplers, responses := t.responses }

/-- Nothing but sampler `u`, the pseudo-random source and the response changes. -/
def OnlySamplerAndSource (s t : State) (u : Fin Config.ns) : Prop :=
  (∀ v, v ≠ u → t.sampler v = s.sampler v) ∧
    t = { s with prng := t.prng, samplers := t.samplers, responses := t.responses }

/-- The effect of an error with code `k`: bit `k` of `ESR` set, every other bit of it kept, one response with STATUS `k`,
FLAG 0 and DATA 0, and nothing else changed (60_exceptions.md R216). -/
def Fails (s t : State) (k : Nat) : Prop :=
  t = { s with esr := t.esr, responses := t.responses } ∧ Responds s t k false 0 ∧
    ∀ i, i < 16 → t.esr.getLsbD i = (s.esr.getLsbD i || decide (i = k))

/-- A command ends with error code `k` from a state (60_exceptions.md R216). -/
def FailsWith (i : Instr) (s : State) (k : Nat) : Prop := ∃ t, exec i s = .next t ∧ Fails s t k

/-- Every element to which 10_state.md R36 gives a reset value has it. -/
def ResetElements (t : State) : Prop :=
  (∀ b : Fin Config.nb, t.container b = []) ∧ t.prng.seeded = false ∧ t.prng.draws = 0 ∧
    (∀ u : Fin Config.ns, (t.sampler u).valid = false ∧ (t.sampler u).cursor = .invalid) ∧ t.esr = 0

/-! ## Which states no command can tell apart -/

/-- Two states that differ at most in what is unobservable: `MT` and `MTI` while `SEEDED = 0`, the five other elements
of a sampler while `VALID = 0`, and the model's counter of free values (10_state.md R28, R29, R36;
93_implementation_defined.md U26, U27). -/
def SameVisible (s t : State) : Prop :=
  s.containers = t.containers ∧ s.prng.seeded = t.prng.seeded ∧ s.prng.draws = t.prng.draws ∧
    (s.prng.seeded = true → s.prng = t.prng) ∧
    (∀ u, (s.sampler u).valid = (t.sampler u).valid ∧ ((s.sampler u).valid = true → s.sampler u = t.sampler u)) ∧
    s.esr = t.esr ∧ s.host = t.host ∧ s.responses = t.responses

/-! ## The spec's table and error conditions -/

/-- `match` and `mask` of every row of opcode_table.json, in its order. -/
def opcodeTable : List (Word64 × Word64) :=
  [ (0x0100000000000000, 0xFFFFFFFFFFFFFFFF), (0x0200000000000000, 0xFFFFFFFFFFFFFFFF),
    (0x0300000000000000, 0xFFFFFFFFFFFFFFFF), (0x1000000000000000, 0xFFFFFFFF00000000),
    (0x1100000000000000, 0xFFFFFFFFFFFFFFFF), (0x1200000000000000, 0xFFFFFFFFFFFFFFFF),
    (0x2000000000000000, 0xFF0FFFFFFFFFFFFF), (0x2100000000000000, 0xFF0FFFFEFFFFFFFF),
    (0x2200000000000000, 0xFF0FFF0000000000), (0x2300000000000000, 0xFF0FFF00FFFFFFFF),
    (0x2400000000000000, 0xFF0FFFFF00000000), (0x2500000000000000, 0xFF0FFFFE00000000),
    (0x2600000000000000, 0xFF0FFFFFFFFFFFFF), (0x2700000000000000, 0xFF0FFFFFFFFFFFFF),
    (0x2800000000000000, 0xFF0FFFFFFFFFFFFF), (0x2900000000000000, 0xFF0FFF0000000000),
    (0x2A00000000000000, 0xFF0FFFFF00000000), (0x2B00000000000000, 0xFF00FFFFFFFFFFFF),
    (0x3000000000000000, 0xFF0FFFFF00000000), (0x3100000000000000, 0xFF0FFFFF00000000),
    (0x3200000000000000, 0xFF0FFFFF00000000), (0x3300000000000000, 0xFF0FFFFF00000000),
    (0x3400000000000000, 0xFF00FFFFFFFFFFFF), (0x3500000000000000, 0xFF0FFFFFFFFFFFFF),
    (0x3600000000000000, 0xFF0FFFFFFFFFFFFF), (0x3700000000000000, 0xFF0FFFFFFFFFFFFF) ]

/-- A word spells some command of the table (30_encoding.md R76, R82). -/
def spells (w : Word64) : Bool := opcodeTable.any fun row => w &&& row.2 == row.1

/-- Some property of the container a unit field names; false where there is none. -/
def onContainer (b : BitVec 4) (s : State) (f : List Bool → Bool) : Bool :=
  match container? Config.ksbc b with
  | some c => f (s.container c)
  | none => false

/-- Some property of the sampler a unit field names; false where there is none. -/
def onSampler (u : BitVec 4) (s : State) (f : Sampler → Bool) : Bool :=
  match sampler? Config.ksbc u with
  | some k => f (s.sampler k)
  | none => false

/-- The cause of code 3 (60_exceptions.md R211). -/
def seedMissing (i : Instr) (s : State) : Bool :=
  match i with
  | .pnext | .sgen _ _ | .sext _ _ => !s.prng.seeded
  | _ => false

/-- The cause of code 4 (60_exceptions.md R211). -/
def samplerMissing (i : Instr) (s : State) : Bool :=
  match i with
  | .sgen u _ | .sext u _ | .sfind u _ _ | .ssize u | .sbegin u | .snext u | .scopy _ u =>
    onSampler u s fun g => !g.valid
  | _ => false

/-- The cause of code 5 (60_exceptions.md R211). -/
def cursorClosed (i : Instr) (s : State) : Bool :=
  match i with
  | .snext u => onSampler u s fun g => g.cursor == .invalid
  | _ => false

/-- The cause of code 6 (60_exceptions.md R211). -/
def domainExceeded (i : Instr) (s : State) : Bool :=
  match i with
  | .sgen u n => onSampler u s fun g => decide (n.toNat > g.width.toNat * g.height.toNat)
  | .sext u more => onSampler u s fun g => decide (g.count + more.toNat > g.width.toNat * g.height.toNat)
  | _ => false

/-- The cause of code 7 (60_exceptions.md R211). -/
def nodesExceeded (i : Instr) (s : State) : Bool :=
  match i with
  | .sgen u n => onSampler u s fun _ => decide (n.toNat > Config.ncap)
  | .sext u more => onSampler u s fun g => decide (g.count + more.toNat > Config.ncap)
  | _ => false

/-- The cause of code 8 (60_exceptions.md R211). -/
def indexOutside (i : Instr) (s : State) : Bool :=
  match i with
  | .brd b index | .bwr b _ index => onContainer b s fun bits => decide (index.toNat ≥ bits.length)
  | .brdbyte b k => onContainer b s fun bits => decide (8 * k.toNat + 8 > bits.length)
  | .btoint b => onContainer b s fun bits => decide (bits.length > Config.xlen)
  | _ => false

/-- The cause of code 9 (60_exceptions.md R211). -/
def capacityExceeded (i : Instr) (s : State) : Bool :=
  match i with
  | .bpush b _ => onContainer b s fun bits => decide (bits.length + 1 > Config.bcap)
  | .bpushv b n _ => onContainer b s fun bits => decide (bits.length + n.toNat > Config.bcap)
  | .bput b _ => onContainer b s fun bits => decide (bits.length + 8 > Config.bcap)
  | _ => false

/-- The codes 2 to 9 whose cause holds for a command, each judged apart from the others, lowest first
(60_exceptions.md R211). -/
def errorCodes (i : Instr) (s : State) : List Nat :=
  [(2, !i.wellFormed), (3, seedMissing i s), (4, samplerMissing i s), (5, cursorClosed i s), (6, domainExceeded i s),
    (7, nodesExceeded i s), (8, indexOutside i s), (9, capacityExceeded i s)].filterMap
      fun cause => if cause.2 then some cause.1 else none

/-! ## The rejection loop -/

/-- The loop's state after `k` candidates (42_sampler.md R160). -/
def Growth.after {G : Generator} (width height : Component) (g : Growth G) (k : Nat) : Growth G :=
  (Growth.candidate width height)^[k] g

/-- The loop ends: some number of candidates brings the count to the target (70_reset_and_hazards.md R252). -/
def Growth.ends {G : Generator} (width height : Component) (target : Nat) (g : Growth G) : Prop :=
  ∃ k, target ≤ (g.after width height k).count

/-! ## The constraint on parameter `PRNG` -/

/-- An algorithm reproduces the scenario of the source's §8 item 5: seed 1, a 10 by 15 domain, 3 members and then one
more, traversed in this order (00_scope.md R9 `PRNG`, 41_prng.md R130 (d)). -/
def reproducesReference (G : Generator) : Prop :=
  ∃ (fuel fuel' : Nat) (g g' : Growth G), growLoop 10 15 3 fuel ⟨Prng.seed 1, .nil, 0⟩ = some g ∧
    preorder g.tree = [⟨4, 8⟩, ⟨3, 13⟩, ⟨5, 14⟩] ∧ growLoop 10 15 4 fuel' g = some g' ∧
    preorder g'.tree = [⟨4, 8⟩, ⟨3, 13⟩, ⟨1, 11⟩, ⟨5, 14⟩]

end Sys2Proof.Machine
end

