-- ==== Sys2Proof/Certificates/Slice0/Obligations.lean ====
section
/-! DEFINITION. The statements for the provers. Vocabulary: Sys2Proof/Safety.lean. A statement about a command names the
unit by the field `u` or `b` of the word and by the unit `k` or `c` it stands for. -/

open Sys2Proof Sys2Proof.Machine

/-! ## Encoding -/

/-- The two worked examples of 30_encoding.md R87 and the example words of BWR (40_bitcontainer.md R108), SCOPY
(42_sampler.md R165) and PSEED (41_prng.md R137) decode to their commands; two illegal words of 95_test_vectors.md
section 3.1 do not. The names of the two refusals are the model's (log 11). -/
def Obligations.WorkedWordsDecode : Prop :=
  decode 0x2210000800000041 = .ok (.bpushv 1 8 0x41) ∧
  decode 0x30000000000A000F = .ok (.sinit 0 10 15) ∧
  decode 0x2500000100000006 = .ok (.bwr 0 true 6) ∧
  decode 0x3410000000000000 = .ok (.scopy 1 0) ∧
  decode 0x1000000000000001 = .ok (.pseed 1) ∧
  decode 0x0000000000000000 = .error .unknownOpcode ∧
  decode 0x2100000200000000 = .error .unusedFieldNonzero

/-- Decoding the encoding of any command gives the command back, whatever its operands. -/
def Obligations.DecodeOfEncode : Prop :=
  ∀ i : Instr, decode (encode i) = .ok i

/-- A command has one spelling: a word that decodes to it is its encoding. -/
def Obligations.SpellingIsUnique : Prop :=
  ∀ (w : Word64) (i : Instr), decode w = .ok i → encode i = w

/-- A word decodes to a command exactly when it agrees with the match value of a row of opcode_table.json under the
row's mask, and then the command's opcode is in bits 63:56. -/
def Obligations.DecodeAgreesWithTable : Prop :=
  ∀ w : Word64, ((∃ i, decode w = .ok i) ↔ spells w = true) ∧
    ∀ i, decode w = .ok i → i.opcode = w.extractLsb' 56 8

/-! ## The step -/

/-- A command word that decodes to `i` makes the step run `i` on the state with that event taken. The host's events as a
list in the state are the model's choice (log 1). -/
def Obligations.StepRunsDecodedCommand : Prop :=
  ∀ (s : State) (w : Word64) (rest : List HostEvent) (i : Instr),
    s.host = .command w :: rest → decode w = .ok i → step s = exec i { s with host := rest }

/-- With no event of the host the machine keeps all state: the model's idle step, deduced from 60_exceptions.md R230 and
70_reset_and_hazards.md R241 (log 3). -/
def Obligations.IdleKeepsAllState : Prop :=
  ∀ s : State, s.host = [] → step s = .next s

/-- A word outside the table, or one the host leaves with a nonzero reserved or unused field, answers status 1 and
changes nothing but `ESR` bit 1. -/
def Obligations.IllegalWordAnswersOne : Prop :=
  ∀ (s : State) (w : Word64) (rest : List HostEvent), s.host = .command w :: rest → spells w = false →
    ∃ t, step s = .next t ∧ Fails { s with host := rest } t 1

/-- When the step on a command word answers a next state, it gives exactly one response, with a status 0 to 9; a
nonzero status `k` sets `ESR[k]`, answers FLAG 0 and DATA 0, and changes nothing else. An SGEN or SEXT that never
ends has no response and no next state (log 6). -/
def Obligations.ErrorsArePrecise : Prop :=
  ∀ (s t : State) (w : Word64) (rest : List HostEvent), s.host = .command w :: rest → step s = .next t →
    ∃ (k : Nat) (flag : Bool) (data : Word), k ≤ 9 ∧ Responds { s with host := rest } t k flag data ∧
      (k ≠ 0 → Fails { s with host := rest } t k)

/-- When the step on a command word answers a next state, the response carries the lowest code whose cause holds: 1
for a word that spells no command, else the lowest of the codes 2 to 9 whose cause holds for the command, else 0;
and `ESR` gains exactly that bit. -/
def Obligations.LowestCodeIsReported : Prop :=
  ∀ (s t : State) (w : Word64) (rest : List HostEvent), s.host = .command w :: rest → step s = .next t →
    (spells w = false → Fails { s with host := rest } t 1) ∧
    ∀ i, decode w = .ok i →
      (errorCodes i s = [] → ∃ flag data, Responds { s with host := rest } t 0 flag data ∧ t.esr &&& s.esr = t.esr) ∧
      ∀ k more, errorCodes i s = k :: more → Fails { s with host := rest } t k

/-- A command with an illegal operand value answers BAD_OPERAND in every state. -/
def Obligations.IllegalOperandAnswersTwo : Prop :=
  ∀ (i : Instr) (s : State), i.wellFormed = false → FailsWith i s 2

/-- No command but RDESR depends on `ESR`: with another value there, the same outcome but for `ESR`. -/
def Obligations.EsrNeverInfluences : Prop :=
  ∀ (i : Instr) (s : State) (e : Component), i ≠ .rdesr →
    (∀ t, exec i s = .next t → ∃ t', exec i { s with esr := e } = .next t' ∧ { t' with esr := 0 } = { t with esr := 0 }) ∧
    ∀ f, exec i s = .fault f → exec i { s with esr := e } = .fault f

/-! ## Reset and the system commands -/

/-- The state right after reset has the value of 10_state.md R36 in every element the rule gives one, and no response
has been given. -/
def Obligations.ResetHasItsValues : Prop :=
  ResetElements State.reset ∧ State.reset.responses = []

/-- `rst` leaves the reset state in every element that has a reset value, and no response, whatever command it
abandons. That `rst` is an event of its own, which carries the abandoned command, is deduced (log 11); the host's
events as a list, the rest of which stays, are the model's choice (log 1). -/
def Obligations.RstAbandonsAndResets : Prop :=
  ∀ (s : State) (a : Option Word64) (rest : List HostEvent), s.host = .reset a :: rest →
    ∃ t, step s = .next t ∧ ResetElements t ∧ t.responses = s.responses ∧ t.host = rest

/-- SRST answers OK and leaves the reset state in every element that has a reset value; no later command can tell the
state from the one after hardware reset. -/
def Obligations.SrstLeavesResetState : Prop :=
  encode .srst = 0x0100000000000000 ∧
  ∀ s : State, ∃ t, exec .srst s = .next t ∧ Responds s t 0 false 0 ∧ ResetElements t ∧
    SameVisible t { State.reset with host := s.host, responses := t.responses }

/-- RDESR answers `ESR` zero-extended, and clears nothing. -/
def Obligations.RdesrReadsEsr : Prop :=
  encode .rdesr = 0x0200000000000000 ∧
  ∀ s : State, ∃ t data, exec .rdesr s = .next t ∧ Responds s t 0 false data ∧
    data.extractLsb' 0 16 = s.esr ∧ data.extractLsb' 16 16 = 0 ∧ OnlyResponse s t

/-- CLRESR writes 0 to `ESR` and to nothing else. -/
def Obligations.ClresrClearsEsr : Prop :=
  encode .clresr = 0x0300000000000000 ∧
  ∀ s : State, ∃ t, exec .clresr s = .next t ∧ Responds s t 0 false 0 ∧ t.esr = 0 ∧
    t = { s with esr := 0, responses := t.responses }

/-! ## The pseudo-random source -/

/-- PSEED seeds in every state: the words follow the recurrence from the seed, `MTI` is 624, `SEEDED` 1 and `DRAWS` 0;
no container, no sampler and no `ESR` bit changes. -/
def Obligations.PseedStartsTheStream : Prop :=
  ∀ (seed : Word) (s : State), encode (.pseed seed) = wordOf 0x10 0 0 0 seed ∧
    ∃ t, exec (.pseed seed) s = .next t ∧ Responds s t 0 false 0 ∧ OnlySource s t ∧
    t.prng.seeded = true ∧ t.prng.draws = 0 ∧ t.prng.mti.val = 624 ∧ t.prng.mt[0]? = some seed ∧
    ∀ i, 1 ≤ i → i ≤ 623 → ∃ a : Word, t.prng.mt[i - 1]? = some a ∧
      t.prng.mt[i]? = some (BitVec.ofNat 32 (1812433253 * (a ^^^ (a >>> 30)).toNat + i))

/-- A regeneration works in place, in increasing index: word `k` is made from the old words `k` and `k + 1` and the word
397 places on, which is already new from `k = 227`; word 623 uses the new word 0. -/
def Obligations.RegenerationIsInPlace : Prop :=
  ∀ (mt : Vector Word Config.mtWords) (k : Nat), k < 624 →
    ∃ cur nxt mid : Word, mt[k]? = some cur ∧
      (if k < 623 then mt[k + 1]? else (mtRegenerate mt)[0]?) = some nxt ∧
      (if k < 227 then mt[k + 397]? else (mtRegenerate mt)[k - 227]?) = some mid ∧
      (mtRegenerate mt)[k]? = some
        (mid ^^^ (((cur &&& 0x80000000) ||| (nxt &&& 0x7FFFFFFF)) >>> 1) ^^^
          (if nxt.getLsbD 0 then 0x9908B0DF else 0))

/-- PNEXT, seeded: the answer is the tempered word at `MTI`, of the words regenerated first when `MTI` is 624; `MTI`
moves one on, `DRAWS` counts one modulo 2^32, nothing else changes. Unseeded: NOT_SEEDED. -/
def Obligations.PnextAnswersNextOutput : Prop :=
  encode .pnext = 0x1100000000000000 ∧
  ∀ s : State,
    (s.prng.seeded = true → ∃ (t : State) (y0 y1 y2 y3 data : Word), exec .pnext s = .next t ∧
      Responds s t 0 false data ∧ OnlySource s t ∧ t.prng.seeded = true ∧ t.prng.draws = s.prng.draws + 1 ∧
      t.prng.mt = (if s.prng.mti.val = 624 then mtRegenerate s.prng.mt else s.prng.mt) ∧
      t.prng.mti.val = (if s.prng.mti.val = 624 then 0 else s.prng.mti.val) + 1 ∧
      t.prng.mt[t.prng.mti.val - 1]? = some y0 ∧ y1 = y0 ^^^ (y0 >>> 11) ∧
      y2 = y1 ^^^ ((y1 <<< 7) &&& 0x9D2C5680) ∧ y3 = y2 ^^^ ((y2 <<< 15) &&& 0xEFC60000) ∧
      data = y3 ^^^ (y3 >>> 18)) ∧
    (s.prng.seeded = false → FailsWith .pnext s 3)

/-- PDRAWS answers `DRAWS`, seeded or not, and changes nothing. -/
def Obligations.PdrawsReadsCount : Prop :=
  encode .pdraws = 0x1200000000000000 ∧
  ∀ s : State, ∃ t, exec .pdraws s = .next t ∧ Responds s t 0 false s.prng.draws ∧ OnlyResponse s t

/-- SGEN and SEXT take two draws a candidate: `DRAWS` grows by an even number. Every other command leaves it, but PSEED
and SRST, which zero it, and PNEXT, which adds one when it answers OK. -/
def Obligations.DrawsCountCandidatesInPairs : Prop :=
  ∀ (i : Instr) (s t : State), exec i s = .next t →
    match i with
    | .srst | .pseed _ => t.prng.draws = 0
    | .pnext => t.prng.draws = s.prng.draws + (if s.prng.seeded then 1 else 0)
    | .sgen _ _ | .sext _ _ => ∃ k : Nat, t.prng.draws = s.prng.draws + BitVec.ofNat 32 (2 * k)
    | _ => t.prng.draws = s.prng.draws

/-! ## The bit containers -/

/-- BCLR empties its container and touches nothing else; a container that does not exist is BAD_OPERAND. No command but
BCLR, BFROMINT and SRST makes a container shorter. -/
def Obligations.BclrEmptiesContainer : Prop :=
  (∀ (i : Instr) (s t : State) (c : Fin Config.nb), exec i s = .next t →
    (t.container c).length < (s.container c).length →
      i = .srst ∨ (∃ b, i = .bclr b ∧ b.toNat = c.val) ∨ ∃ b w v, i = .bfromint b w v ∧ b.toNat = c.val) ∧
  ∀ (b : BitVec 4) (s : State),
    encode (.bclr b) = wordOf 0x20 b 0 0 0 ∧
    (b.toNat ≥ Config.nb → FailsWith (.bclr b) s 2) ∧
    ∀ c : Fin Config.nb, b.toNat = c.val →
      ∃ t, exec (.bclr b) s = .next t ∧ Responds s t 0 false 0 ∧ OnlyContainer s t c ∧ t.container c = []

/-- BPUSH appends its bit at index LEN when it fits, all earlier bits staying; else CONTAINER_FULL; BAD_OPERAND without
the container. -/
def Obligations.BpushAppendsOneBit : Prop :=
  ∀ (b : BitVec 4) (bit : Bool) (s : State),
    encode (.bpush b bit) = wordOf 0x21 b 0 (if bit then 1 else 0) 0 ∧
    (b.toNat ≥ Config.nb → FailsWith (.bpush b bit) s 2) ∧
    ∀ c : Fin Config.nb, b.toNat = c.val →
      ((s.container c).length + 1 ≤ Config.bcap →
        ∃ t, exec (.bpush b bit) s = .next t ∧ Responds s t 0 false 0 ∧ OnlyContainer s t c ∧
          t.container c = s.container c ++ [bit]) ∧
      ((s.container c).length + 1 > Config.bcap → FailsWith (.bpush b bit) s 9)

/-- BPUSHV appends bits `value[nBits-1]` down to `value[0]` when they fit, all earlier bits staying; else CONTAINER_FULL
and not one bit. A count above 32, or no such container, is BAD_OPERAND. -/
def Obligations.BpushvAppendsMsbFirst : Prop :=
  ∀ (b : BitVec 4) (nBits : BitVec 8) (value : Word) (s : State),
    encode (.bpushv b nBits value) = wordOf 0x22 b 0 nBits value ∧
    (b.toNat ≥ Config.nb ∨ nBits.toNat > 32 → FailsWith (.bpushv b nBits value) s 2) ∧
    ∀ c : Fin Config.nb, b.toNat = c.val → nBits.toNat ≤ 32 →
      ((s.container c).length + nBits.toNat ≤ Config.bcap →
        ∃ t added, exec (.bpushv b nBits value) s = .next t ∧ Responds s t 0 false 0 ∧ OnlyContainer s t c ∧
          t.container c = s.container c ++ added ∧ added.length = nBits.toNat ∧
          ∀ j, j < nBits.toNat → added[j]? = some (value.getLsbD (nBits.toNat - 1 - j))) ∧
      ((s.container c).length + nBits.toNat > Config.bcap → FailsWith (.bpushv b nBits value) s 9)

/-- BPUT appends bits 7 down to 0 of its byte when they fit, at any LEN; else CONTAINER_FULL; BAD_OPERAND without the
container. It has exactly the effect of BPUSHV with 8 bits. -/
def Obligations.BputAppendsByte : Prop :=
  ∀ (b : BitVec 4) (byte : Byte) (s : State),
    encode (.bput b byte) = wordOf 0x23 b 0 byte 0 ∧
    exec (.bput b byte) s = exec (.bpushv b 8 (byte.setWidth 32)) s ∧
    (b.toNat ≥ Config.nb → FailsWith (.bput b byte) s 2) ∧
    ∀ c : Fin Config.nb, b.toNat = c.val →
      ((s.container c).length + 8 ≤ Config.bcap →
        ∃ t added, exec (.bput b byte) s = .next t ∧ Responds s t 0 false 0 ∧ OnlyContainer s t c ∧
          t.container c = s.container c ++ added ∧ added.length = 8 ∧
          ∀ j, j < 8 → added[j]? = some (byte.getLsbD (7 - j))) ∧
      ((s.container c).length + 8 > Config.bcap → FailsWith (.bput b byte) s 9)

/-- BRD answers the bit at a valid index and changes nothing; else INDEX_RANGE; BAD_OPERAND without the container. -/
def Obligations.BrdReadsBit : Prop :=
  ∀ (b : BitVec 4) (index : Word) (s : State),
    encode (.brd b index) = wordOf 0x24 b 0 0 index ∧
    (b.toNat ≥ Config.nb → FailsWith (.brd b index) s 2) ∧
    ∀ c : Fin Config.nb, b.toNat = c.val →
      (index.toNat < (s.container c).length →
        ∃ t bit, exec (.brd b index) s = .next t ∧ (s.container c)[index.toNat]? = some bit ∧
          Responds s t 0 bit 0 ∧ OnlyResponse s t) ∧
      (index.toNat ≥ (s.container c).length → FailsWith (.brd b index) s 8)

/-- BWR writes the bit at a valid index, every other bit and the length staying; else INDEX_RANGE; BAD_OPERAND without
the container. -/
def Obligations.BwrWritesBit : Prop :=
  ∀ (b : BitVec 4) (bit : Bool) (index : Word) (s : State),
    encode (.bwr b bit index) = wordOf 0x25 b 0 (if bit then 1 else 0) index ∧
    (b.toNat ≥ Config.nb → FailsWith (.bwr b bit index) s 2) ∧
    ∀ c : Fin Config.nb, b.toNat = c.val →
      (index.toNat < (s.container c).length →
        ∃ t, exec (.bwr b bit index) s = .next t ∧ Responds s t 0 false 0 ∧ OnlyContainer s t c ∧
          (t.container c).length = (s.container c).length ∧ (t.container c)[index.toNat]? = some bit ∧
          ∀ j, j ≠ index.toNat → (t.container c)[j]? = (s.container c)[j]?) ∧
      (index.toNat ≥ (s.container c).length → FailsWith (.bwr b bit index) s 8)

/-- BSIZE answers the bit count of a container within its capacity and changes nothing; BAD_OPERAND without the
container. -/
def Obligations.BsizeReadsLength : Prop :=
  ∀ (b : BitVec 4) (s : State),
    encode (.bsize b) = wordOf 0x26 b 0 0 0 ∧
    (b.toNat ≥ Config.nb → FailsWith (.bsize b) s 2) ∧
    ∀ c : Fin Config.nb, b.toNat = c.val → (s.container c).length ≤ Config.bcap →
      ∃ t data, exec (.bsize b) s = .next t ∧ Responds s t 0 false data ∧ data.toNat = (s.container c).length ∧
        OnlyResponse s t

/-- BEMPTY answers FLAG 1 exactly when LEN is 0 and changes nothing; BAD_OPERAND without the container. -/
def Obligations.BemptyTestsLength : Prop :=
  ∀ (b : BitVec 4) (s : State),
    encode (.bempty b) = wordOf 0x27 b 0 0 0 ∧
    (b.toNat ≥ Config.nb → FailsWith (.bempty b) s 2) ∧
    ∀ c : Fin Config.nb, b.toNat = c.val →
      ∃ t, exec (.bempty b) s = .next t ∧ Responds s t 0 (decide ((s.container c).length = 0)) 0 ∧ OnlyResponse s t

/-- BTOINT answers the sum of `BIT[i] * 2^(LEN-1-i)` for a container of at most 32 bits and changes nothing; a longer one
is INDEX_RANGE; BAD_OPERAND without the container. -/
def Obligations.BtointReadsInteger : Prop :=
  ∀ (b : BitVec 4) (s : State),
    encode (.btoint b) = wordOf 0x28 b 0 0 0 ∧
    (b.toNat ≥ Config.nb → FailsWith (.btoint b) s 2) ∧
    ∀ c : Fin Config.nb, b.toNat = c.val →
      ((s.container c).length ≤ 32 →
        ∃ t data, exec (.btoint b) s = .next t ∧ Responds s t 0 false data ∧ OnlyResponse s t ∧
          data.toNat = ∑ i : Fin (s.container c).length,
            ((s.container c)[i]).toNat * 2 ^ ((s.container c).length - 1 - i.val)) ∧
      ((s.container c).length > 32 → FailsWith (.btoint b) s 8)

/-- BFROMINT replaces the content by bits `value[width-1]` down to `value[0]`, whatever was there: the effect of BCLR and
then BPUSHV. BTOINT then answers any value below `2^width`. A width above 32, or no such container, is BAD_OPERAND. -/
def Obligations.BfromintReplacesContent : Prop :=
  ∀ (b : BitVec 4) (width : BitVec 8) (value : Word) (s : State),
    encode (.bfromint b width value) = wordOf 0x29 b 0 width value ∧
    (b.toNat ≥ Config.nb ∨ width.toNat > 32 → FailsWith (.bfromint b width value) s 2) ∧
    ∀ c : Fin Config.nb, b.toNat = c.val → width.toNat ≤ 32 →
      ∃ t, exec (.bfromint b width value) s = .next t ∧ Responds s t 0 false 0 ∧ OnlyContainer s t c ∧
        (t.container c).length = width.toNat ∧
        (∀ j, j < width.toNat → (t.container c)[j]? = some (value.getLsbD (width.toNat - 1 - j))) ∧
        (∃ t1 t2, exec (.bclr b) s = .next t1 ∧ exec (.bpushv b width value) t1 = .next t2 ∧
          { t2 with responses := [] } = { t with responses := [] }) ∧
        (value.toNat < 2 ^ width.toNat → ∃ t3, exec (.btoint b) t = .next t3 ∧ Responds t t3 0 false value)

/-- BRDBYTE answers byte `k`, `BIT[8k]` as its bit 7, when all 8 bits exist, the bound computed exactly; else
INDEX_RANGE; BAD_OPERAND without the container. -/
def Obligations.BrdbyteReadsWholeByte : Prop :=
  ∀ (b : BitVec 4) (k : Word) (s : State),
    encode (.brdbyte b k) = wordOf 0x2A b 0 0 k ∧
    (b.toNat ≥ Config.nb → FailsWith (.brdbyte b k) s 2) ∧
    ∀ c : Fin Config.nb, b.toNat = c.val →
      (8 * k.toNat + 8 ≤ (s.container c).length →
        ∃ t data, exec (.brdbyte b k) s = .next t ∧ Responds s t 0 false data ∧ OnlyResponse s t ∧
          data.extractLsb' 8 24 = 0 ∧
          ∀ j, j < 8 → (s.container c)[8 * k.toNat + j]? = some (data.getLsbD (7 - j))) ∧
      (8 * k.toNat + 8 > (s.container c).length → FailsWith (.brdbyte b k) s 8)

/-- BEQ answers FLAG 1 exactly when both contents have the same length and the same bit at every index, and changes
nothing; BAD_OPERAND without either container. -/
def Obligations.BeqComparesContents : Prop :=
  ∀ (b c : BitVec 4) (s : State),
    encode (.beq b c) = wordOf 0x2B b c 0 0 ∧
    (b.toNat ≥ Config.nb ∨ c.toNat ≥ Config.nb → FailsWith (.beq b c) s 2) ∧
    ∀ i j : Fin Config.nb, b.toNat = i.val → c.toNat = j.val →
      ∃ t eq, exec (.beq b c) s = .next t ∧ Responds s t 0 eq 0 ∧ OnlyResponse s t ∧
        (eq = true ↔ (s.container i).length = (s.container j).length ∧
          ∀ n, n < (s.container i).length → (s.container i)[n]? = (s.container j)[n]?)

/-- Two appends of integers leave the content of one append of the two joined. -/
def Obligations.AppendsAreAssociative : Prop :=
  ∀ (b : BitVec 4) (c : Fin Config.nb) (m n : BitVec 8) (p q : Word) (s : State), b.toNat = c.val →
    m.toNat + n.toNat ≤ 32 → p.toNat < 2 ^ m.toNat → q.toNat < 2 ^ n.toNat →
    (s.container c).length + m.toNat + n.toNat ≤ Config.bcap →
    ∃ t t' t'', exec (.bpushv b m p) s = .next t ∧ exec (.bpushv b n q) t = .next t' ∧
      exec (.bpushv b (m + n) (BitVec.ofNat 32 (p.toNat * 2 ^ n.toNat + q.toNat))) s = .next t'' ∧
      t'.container c = t''.container c

/-- Building a container from a byte string and reading its bytes returns the string: BFROMBYTES leaves 8 bits a byte,
and BRDBYTE `k` answers byte `k`. -/
def Obligations.ByteStringRoundTrip : Prop :=
  ∀ (b : BitVec 4) (c : Fin Config.nb) (bytes : List Byte) (s : State), b.toNat = c.val →
    8 * bytes.length ≤ Config.bcap →
    ∃ t, execAll (bfrombytes b bytes) s = .next t ∧ (t.container c).length = 8 * bytes.length ∧
      ∀ k (h : k < bytes.length), ∃ t', exec (.brdbyte b (BitVec.ofNat 32 k)) t = .next t' ∧
        Responds t t' 0 false ((bytes[k]).setWidth 32)

/-! ## The tree algorithms -/

/-- `find` follows its three equations, and on a search tree it is true exactly of the members. -/
def Obligations.FindDecidesMembership : Prop :=
  (∀ c, find .nil c = false) ∧
  (∀ l k r c, find (.node l k r) c = if c = k then true else if c.lt k then find l c else find r c) ∧
  ∀ t c, searchTree t = true → (find t c = true ↔ c ∈ preorder t)

/-- The order on coordinates is lexicographic, `x` first, and is the unsigned order of the packed words, which hold `x`
in bits 31:16 and `y` in bits 15:0. -/
def Obligations.CoordOrderIsPackedOrder : Prop :=
  ∀ a b : Coord,
    (a.lt b = true ↔ a.x.toNat < b.x.toNat ∨ (a.x = b.x ∧ a.y.toNat < b.y.toNat)) ∧
    (a.lt b = true ↔ a.pack.toNat < b.pack.toNat) ∧
    a.pack.extractLsb' 16 16 = a.x ∧ a.pack.extractLsb' 0 16 = a.y

/-- Insertion into an AVL-balanced search tree gives one, whose members are the old ones and the new coordinate; it grows
exactly when the coordinate is new, and otherwise the tree is unchanged. The five illustrations of 42_sampler.md R158
have the pre-orders the rule prints. -/
def Obligations.InsertKeepsAvlSearchTree : Prop :=
  (∀ t c, searchTree t = true → balanced t = true →
    searchTree (ins t c).1 = true ∧ balanced (ins t c).1 = true ∧
    (∀ d, d ∈ preorder (ins t c).1 ↔ d ∈ preorder t ∨ d = c) ∧
    ((ins t c).2 = true ↔ c ∉ preorder t) ∧ ((ins t c).2 = false → (ins t c).1 = t)) ∧
  [[⟨5, 14⟩, ⟨4, 8⟩, ⟨3, 13⟩], [⟨3, 0⟩, ⟨4, 0⟩, ⟨5, 0⟩], [⟨5, 0⟩, ⟨3, 0⟩, ⟨4, 0⟩], [⟨3, 0⟩, ⟨5, 0⟩, ⟨4, 0⟩],
      [⟨2, 7⟩, ⟨2, 3⟩, ⟨2, 5⟩]].map
    (fun (cs : List Coord) => cs.foldl (fun t c => (ins t c).1) CoordTree.nil) =
  [.node (.node .nil ⟨3, 13⟩ .nil) ⟨4, 8⟩ (.node .nil ⟨5, 14⟩ .nil),
   .node (.node .nil ⟨3, 0⟩ .nil) ⟨4, 0⟩ (.node .nil ⟨5, 0⟩ .nil),
   .node (.node .nil ⟨3, 0⟩ .nil) ⟨4, 0⟩ (.node .nil ⟨5, 0⟩ .nil),
   .node (.node .nil ⟨3, 0⟩ .nil) ⟨4, 0⟩ (.node .nil ⟨5, 0⟩ .nil),
   .node (.node .nil ⟨2, 3⟩ .nil) ⟨2, 5⟩ (.node .nil ⟨2, 7⟩ .nil)]

/-- A search tree lists no coordinate twice: a sampler never holds a duplicate. -/
def Obligations.TraversalHasNoDuplicate : Prop :=
  ∀ t, searchTree t = true → (preorder t).Nodup

/-- Walking a tree by the navigation of 42_sampler.md R171 visits its nodes in pre-order, and then ends. -/
def Obligations.NavigationVisitsPreorder : Prop :=
  ∀ (t : CoordTree) (n : Nat), (preorder t).length ≤ n → walk n (firstPosition t) = preorder t

/-! ## The rejection loop -/

/-- One candidate, under any algorithm: two draws, `x` first, reduced modulo width and height. A member is rejected
and changes nothing but the source; a new coordinate becomes a member and counts one. -/
def Obligations.CandidateSpendsTwoDraws : Prop :=
  ∀ (G : Generator) (width height : Component) (g : Growth G) (o1 o2 : Word) (p1 p2 : Prng G) (c : Coord),
    searchTree g.tree = true → width ≠ 0 → height ≠ 0 → g.prng.draw = (o1, p1) → p1.draw = (o2, p2) →
    c.x.toNat = o1.toNat % width.toNat → c.y.toNat = o2.toNat % height.toNat →
    (c ∈ preorder g.tree → g.candidate width height = { g with prng := p2 }) ∧
    (c ∉ preorder g.tree →
      (g.candidate width height).prng = p2 ∧ (g.candidate width height).count = g.count + 1 ∧
      (preorder (g.candidate width height).tree).Perm (c :: preorder g.tree))

/-- Under any configuration the loop's fuel runs out exactly where no number of candidates reaches the target: the
model stops exactly where the command never responds. The fuel is the model's, deduced (log 6). -/
def Obligations.FuelRunsOutOnlyWhereLoopNeverEnds : Prop :=
  ∀ (P : Parameters) (width height : Component) (target : Nat) (g : Growth P.prng), target ≤ P.ncap →
    (growLoop width height target (growFuel P) g = none ↔ ¬ g.ends width height target)

/-! ## The sampler commands -/

/-- SINIT creates an empty sampler over its domain, cursor closed, seeded or not, and draws nothing; a zero side, or no
such sampler, is BAD_OPERAND. -/
def Obligations.SinitCreatesEmptySampler : Prop :=
  ∀ (u : BitVec 4) (width height : Component) (s : State),
    encode (.sinit u width height) = wordOf 0x30 u 0 0 (width ++ height) ∧
    (u.toNat ≥ Config.ns ∨ width = 0 ∨ height = 0 → FailsWith (.sinit u width height) s 2) ∧
    ∀ k : Fin Config.ns, u.toNat = k.val → width ≠ 0 → height ≠ 0 →
      ∃ t, exec (.sinit u width height) s = .next t ∧ Responds s t 0 false 0 ∧ OnlySampler s t k ∧
        (t.sampler k).valid = true ∧ (t.sampler k).width = width ∧ (t.sampler k).height = height ∧
        (t.sampler k).tree = .nil ∧ (t.sampler k).count = 0 ∧ (t.sampler k).cursor = .invalid

/-- SGEN, its checks in order (unit, seeded, sampler, domain, node memory), and then: it answers OK exactly when the
loop ends (the model stops where it does not, log 6), with the source, the tree and the count as they are after the
least number of candidates that brings the count to `n`. COUNT becomes the larger of itself and `n`, the cursor is
closed, the domain stays, nothing else changes. -/
def Obligations.SgenGrowsToTarget : Prop :=
  ∀ (u : BitVec 4) (n : Word) (s : State),
    encode (.sgen u n) = wordOf 0x31 u 0 0 n ∧
    (u.toNat ≥ Config.ns → FailsWith (.sgen u n) s 2) ∧
    ∀ k : Fin Config.ns, u.toNat = k.val →
      (s.prng.seeded = false → FailsWith (.sgen u n) s 3) ∧
      (s.prng.seeded = true → (s.sampler k).valid = false → FailsWith (.sgen u n) s 4) ∧
      (s.prng.seeded = true → (s.sampler k).valid = true → ∀ target, target = n.toNat →
        (target > (s.sampler k).width.toNat * (s.sampler k).height.toNat → FailsWith (.sgen u n) s 6) ∧
        (target ≤ (s.sampler k).width.toNat * (s.sampler k).height.toNat → target > Config.ncap →
          FailsWith (.sgen u n) s 7) ∧
        (target ≤ (s.sampler k).width.toNat * (s.sampler k).height.toNat → target ≤ Config.ncap →
          ((s.growth k).ends (s.sampler k).width (s.sampler k).height target ↔ ∃ t, exec (.sgen u n) s = .next t) ∧
          ∀ j, target ≤ ((s.growth k).after (s.sampler k).width (s.sampler k).height j).count →
            (∀ i, i < j → ((s.growth k).after (s.sampler k).width (s.sampler k).height i).count < target) →
            ∃ t, exec (.sgen u n) s = .next t ∧ Responds s t 0 false 0 ∧ OnlySamplerAndSource s t k ∧
              t.growth k = (s.growth k).after (s.sampler k).width (s.sampler k).height j ∧
              (t.sampler k).count = max (s.sampler k).count n.toNat ∧ (t.sampler k).valid = true ∧
              (t.sampler k).width = (s.sampler k).width ∧ (t.sampler k).height = (s.sampler k).height ∧
              (t.sampler k).cursor = .invalid))

/-- SEXT, with the same checks and the target COUNT + by computed exactly: it answers OK exactly when the loop ends
(the model stops where it does not, log 6), and COUNT grows by exactly `by`. It has the effect of SGEN with that
target, when the target fits 32 bits. -/
def Obligations.SextGrowsByCount : Prop :=
  ∀ (u : BitVec 4) (more : Word) (s : State),
    encode (.sext u more) = wordOf 0x32 u 0 0 more ∧
    (u.toNat ≥ Config.ns → FailsWith (.sext u more) s 2) ∧
    ∀ k : Fin Config.ns, u.toNat = k.val →
      (∀ n : Word, n.toNat = (s.sampler k).count + more.toNat → exec (.sext u more) s = exec (.sgen u n) s) ∧
      (s.prng.seeded = false → FailsWith (.sext u more) s 3) ∧
      (s.prng.seeded = true → (s.sampler k).valid = false → FailsWith (.sext u more) s 4) ∧
      (s.prng.seeded = true → (s.sampler k).valid = true → ∀ target, target = (s.sampler k).count + more.toNat →
        (target > (s.sampler k).width.toNat * (s.sampler k).height.toNat → FailsWith (.sext u more) s 6) ∧
        (target ≤ (s.sampler k).width.toNat * (s.sampler k).height.toNat → target > Config.ncap →
          FailsWith (.sext u more) s 7) ∧
        (target ≤ (s.sampler k).width.toNat * (s.sampler k).height.toNat → target ≤ Config.ncap →
          ((s.growth k).ends (s.sampler k).width (s.sampler k).height target ↔ ∃ t, exec (.sext u more) s = .next t) ∧
          ∀ j, target ≤ ((s.growth k).after (s.sampler k).width (s.sampler k).height j).count →
            (∀ i, i < j → ((s.growth k).after (s.sampler k).width (s.sampler k).height i).count < target) →
            ∃ t, exec (.sext u more) s = .next t ∧ Responds s t 0 false 0 ∧ OnlySamplerAndSource s t k ∧
              t.growth k = (s.growth k).after (s.sampler k).width (s.sampler k).height j ∧
              (t.sampler k).count = (s.sampler k).count + more.toNat ∧ (t.sampler k).valid = true ∧
              (t.sampler k).width = (s.sampler k).width ∧ (t.sampler k).height = (s.sampler k).height ∧
              (t.sampler k).cursor = .invalid))

/-- SGEN with `n` at most COUNT draws nothing and adds nothing, but closes the cursor; so does SEXT with `by` 0. -/
def Obligations.GrowthByNothingClosesCursor : Prop :=
  ∀ (u : BitVec 4) (k : Fin Config.ns) (n : Word) (s : State), u.toNat = k.val → s.prng.seeded = true → s.wf →
    (s.sampler k).valid = true → n.toNat ≤ (s.sampler k).count →
    ∃ t t', exec (.sgen u n) s = .next t ∧ exec (.sext u 0) s = .next t' ∧
      Responds s t 0 false 0 ∧ OnlySampler s t k ∧ t.sampler k = { s.sampler k with cursor := .invalid } ∧
      t' = t

/-- Growing by `p` and then by `q` draws the same candidates and builds the same tree as growing by `p + q`. -/
def Obligations.ExtensionsCompose : Prop :=
  ∀ (u : BitVec 4) (k : Fin Config.ns) (p q : Word) (s t t' : State), u.toNat = k.val → s.prng.seeded = true →
    (s.sampler k).valid = true → p.toNat + q.toNat < 2 ^ 32 →
    (s.sampler k).count + p.toNat + q.toNat ≤ (s.sampler k).width.toNat * (s.sampler k).height.toNat →
    (s.sampler k).count + p.toNat + q.toNat ≤ Config.ncap →
    exec (.sext u p) s = .next t → exec (.sext u q) t = .next t' →
    ∃ t'', exec (.sext u (p + q)) s = .next t'' ∧ { t'' with responses := [] } = { t' with responses := [] }

/-- SFIND on an existing sampler answers whether the coordinate is a member, of a sampler in form; no state changes, and
a coordinate outside the domain is never found. NOT_INIT without the sampler, BAD_OPERAND without the unit. -/
def Obligations.SfindTestsMembership : Prop :=
  ∀ (u : BitVec 4) (x y : Component) (s : State),
    encode (.sfind u x y) = wordOf 0x33 u 0 0 (x ++ y) ∧
    (u.toNat ≥ Config.ns → FailsWith (.sfind u x y) s 2) ∧
    ∀ k : Fin Config.ns, u.toNat = k.val →
      ((s.sampler k).valid = false → FailsWith (.sfind u x y) s 4) ∧
      ((s.sampler k).valid = true → (s.sampler k).wf →
        ∃ t flag, exec (.sfind u x y) s = .next t ∧ Responds s t 0 flag 0 ∧ OnlyResponse s t ∧
          (flag = true ↔ (⟨x, y⟩ : Coord) ∈ preorder (s.sampler k).tree) ∧
          (x.toNat ≥ (s.sampler k).width.toNat ∨ y.toNat ≥ (s.sampler k).height.toNat → flag = false))

/-- SSIZE answers COUNT, which is the number of members of a sampler in form, and changes nothing. NOT_INIT without the
sampler, BAD_OPERAND without the unit. -/
def Obligations.SsizeReadsCount : Prop :=
  ∀ (u : BitVec 4) (s : State),
    encode (.ssize u) = wordOf 0x35 u 0 0 0 ∧
    (u.toNat ≥ Config.ns → FailsWith (.ssize u) s 2) ∧
    ∀ k : Fin Config.ns, u.toNat = k.val →
      ((s.sampler k).valid = false → FailsWith (.ssize u) s 4) ∧
      ((s.sampler k).valid = true → (s.sampler k).wf →
        ∃ t data, exec (.ssize u) s = .next t ∧ Responds s t 0 false data ∧ OnlyResponse s t ∧
          data.toNat = (s.sampler k).count ∧ data.toNat = (preorder (s.sampler k).tree).length)

/-- SCOPY from an existing sampler makes the destination its structural copy with the cursor closed; every other sampler
and the pseudo-random source stay, so a copy onto itself only closes the cursor. NOT_INIT without the source,
BAD_OPERAND without either unit. -/
def Obligations.ScopyCopiesStructure : Prop :=
  ∀ (d u : BitVec 4) (s : State),
    encode (.scopy d u) = wordOf 0x34 d u 0 0 ∧
    (d.toNat ≥ Config.ns ∨ u.toNat ≥ Config.ns → FailsWith (.scopy d u) s 2) ∧
    ∀ i j : Fin Config.ns, d.toNat = i.val → u.toNat = j.val →
      ((s.sampler j).valid = false → FailsWith (.scopy d u) s 4) ∧
      ((s.sampler j).valid = true →
        ∃ t, exec (.scopy d u) s = .next t ∧ Responds s t 0 false 0 ∧ OnlySampler s t i ∧
          (t.sampler i).valid = true ∧ (t.sampler i).width = (s.sampler j).width ∧
          (t.sampler i).height = (s.sampler j).height ∧ (t.sampler i).tree = (s.sampler j).tree ∧
          (t.sampler i).count = (s.sampler j).count ∧ (t.sampler i).cursor = .invalid)

/-- SBEGIN opens the traversal of an existing sampler at element 0 and answers FLAG 1 exactly when it is empty. NOT_INIT
without the sampler, BAD_OPERAND without the unit. -/
def Obligations.SbeginOpensTraversal : Prop :=
  ∀ (u : BitVec 4) (s : State),
    encode (.sbegin u) = wordOf 0x36 u 0 0 0 ∧
    (u.toNat ≥ Config.ns → FailsWith (.sbegin u) s 2) ∧
    ∀ k : Fin Config.ns, u.toNat = k.val →
      ((s.sampler k).valid = false → FailsWith (.sbegin u) s 4) ∧
      ((s.sampler k).valid = true →
        ∃ t, exec (.sbegin u) s = .next t ∧ Responds s t 0 (decide ((s.sampler k).count = 0)) 0 ∧ OnlySampler s t k ∧
          t.sampler k = { s.sampler k with cursor := .position 0 })

/-- SNEXT on an existing sampler: with the cursor closed, CURSOR_INVALID; at COUNT, FLAG 1 and no change; at an element
of the traversal before that, FLAG 0 and the packed coordinate, and the cursor moves one on. NOT_INIT without the
sampler, BAD_OPERAND without the unit. -/
def Obligations.SnextReturnsElement : Prop :=
  ∀ (u : BitVec 4) (s : State),
    encode (.snext u) = wordOf 0x37 u 0 0 0 ∧
    (u.toNat ≥ Config.ns → FailsWith (.snext u) s 2) ∧
    ∀ k : Fin Config.ns, u.toNat = k.val →
      ((s.sampler k).valid = false → FailsWith (.snext u) s 4) ∧
      ((s.sampler k).valid = true →
        ((s.sampler k).cursor = .invalid → FailsWith (.snext u) s 5) ∧
        ((s.sampler k).cursor = .position (s.sampler k).count →
          ∃ t, exec (.snext u) s = .next t ∧ Responds s t 0 true 0 ∧ OnlyResponse s t) ∧
        ∀ (n : Nat) (c : Coord), (s.sampler k).cursor = .position n → n ≠ (s.sampler k).count →
          (preorder (s.sampler k).tree)[n]? = some c →
          ∃ t data, exec (.snext u) s = .next t ∧ Responds s t 0 false data ∧ OnlySampler s t k ∧
            t.sampler k = { s.sampler k with cursor := .position (n + 1) } ∧
            data.extractLsb' 16 16 = c.x ∧ data.extractLsb' 0 16 = c.y)

/-- A full traversal of a sampler in form, one SBEGIN and COUNT + 1 SNEXT, answers every member once, in the pre-order of
the tree, and then FLAG 1; the tree is as it was and the cursor stands at the end. -/
def Obligations.TraversalAnswersPreorder : Prop :=
  ∀ (u : BitVec 4) (k : Fin Config.ns) (s : State), u.toNat = k.val → (s.sampler k).valid = true → (s.sampler k).wf →
    ∃ t first, execAll (.sbegin u :: List.replicate ((s.sampler k).count + 1) (.snext u)) s = .next t ∧
      t.responses = s.responses ++ first :: ((preorder (s.sampler k).tree).map fun c => c.pack.setWidth 64) ++
        [0x0000000100000000] ∧
      t.sampler k = { s.sampler k with cursor := .position (s.sampler k).count }

/-- SINIT, SGEN, SEXT and SCOPY close the cursor of the sampler they write when they answer OK; SRST and `rst` close
every cursor; no other command closes one, a command that ends with an error moves none, and none but SBEGIN and SNEXT
on the sampler itself moves one. -/
def Obligations.CursorsCloseOnlyByRule : Prop :=
  (∀ (i : Instr) (s t : State) (k : Fin Config.ns), exec i s = .next t →
    match i with
    | .srst => (t.sampler k).cursor = .invalid
    | .sinit u _ _ | .sgen u _ | .sext u _ | .scopy u _ =>
      if u.toNat = k.val ∧ errorCodes i s = [] then (t.sampler k).cursor = .invalid
      else (t.sampler k).cursor = (s.sampler k).cursor
    | .sbegin u | .snext u =>
      (u.toNat ≠ k.val → (t.sampler k).cursor = (s.sampler k).cursor) ∧
        (errorCodes i s ≠ [] → (t.sampler k).cursor = (s.sampler k).cursor) ∧
        ((t.sampler k).cursor = .invalid → (s.sampler k).cursor = .invalid)
    | _ => (t.sampler k).cursor = (s.sampler k).cursor) ∧
  ∀ (s t : State) (a : Option Word64) (rest : List HostEvent) (k : Fin Config.ns),
    s.host = .reset a :: rest → step s = .next t → (t.sampler k).cursor = .invalid

/-- Within the life of a sampler its members only grow: a command that does not create it anew, copy into it or restart
the block keeps it existing and keeps every member. -/
def Obligations.MembersOnlyGrow : Prop :=
  ∀ (i : Instr) (s t : State) (k : Fin Config.ns) (c : Coord), exec i s = .next t →
    (s.sampler k).valid = true → i ≠ .srst → (∀ u w h, i = .sinit u w h → u.toNat ≠ k.val) →
    (∀ d u, i = .scopy d u → d.toNat ≠ k.val) → c ∈ preorder (s.sampler k).tree →
    (t.sampler k).valid = true ∧ (t.sampler k).width = (s.sampler k).width ∧
      (t.sampler k).height = (s.sampler k).height ∧ c ∈ preorder (t.sampler k).tree

/-- The header and payload split: copy a sampler and extend the copy by `p`; every member of the original is one of the
copy, exactly `p` members of the copy are not in the original, and the original is as it was. -/
def Obligations.CopyAndExtendSplits : Prop :=
  ∀ (d u : BitVec 4) (i j : Fin Config.ns) (p : Word) (s t t' : State), s.wf → d.toNat = i.val → u.toNat = j.val →
    i ≠ j → s.prng.seeded = true → (s.sampler j).valid = true →
    (s.sampler j).count + p.toNat ≤ (s.sampler j).width.toNat * (s.sampler j).height.toNat →
    (s.sampler j).count + p.toNat ≤ Config.ncap →
    exec (.scopy d u) s = .next t → exec (.sext d p) t = .next t' →
    t'.sampler j = s.sampler j ∧
    (∀ c, c ∈ preorder (s.sampler j).tree → c ∈ preorder (t'.sampler i).tree) ∧
    ((preorder (t'.sampler i).tree).filter fun c => !find (s.sampler j).tree c).length = p.toNat

/-! ## The whole machine -/

/-- The invariant holds at reset. -/
def Obligations.ResetIsWellFormed : Prop := State.reset.wf

/-- Every step keeps the invariant: capacities, search order, balance, counts, domains, cursors, reserved `ESR` bits and
legal responses. -/
def Obligations.StepKeepsWellFormed : Prop :=
  ∀ s t : State, s.wf → step s = .next t → t.wf

/-- From a state that meets the invariant a step stops only in SGEN or SEXT, and only where the loop never ends; nothing
is refused. -/
def Obligations.OnlyEndlessGrowthStops : Prop :=
  ∀ s : State, s.wf →
    (∀ r, step s ≠ .refused r) ∧
    ∀ f, step s = .fault f → f = .neverResponds ∧ ∃ (w : Word64) (rest : List HostEvent) (u : BitVec 4)
      (k : Fin Config.ns) (target : Nat), s.host = .command w :: rest ∧ u.toNat = k.val ∧
      ((∃ n : Word, decode w = .ok (.sgen u n) ∧ target = n.toNat) ∨
        ∃ more : Word, decode w = .ok (.sext u more) ∧ target = (s.sampler k).count + more.toNat) ∧
      ¬ (s.growth k).ends (s.sampler k).width (s.sampler k).height target

/-- What 10_state.md R36 calls unspecified is unobservable: states that differ only there give the same responses and
stay so, and stop together. So no response rests on the values of logs 4 and 5. -/
def Obligations.UnspecifiedStateIsUnobservable : Prop :=
  ∀ s t : State, SameVisible s t →
    (∀ s', step s = .next s' → ∃ t', step t = .next t' ∧ SameVisible s' t') ∧
    ∀ f, step s = .fault f → step t = .fault f
end

