-- ==== Sys2Proof/Laws/State.lean ====
section
/-! SUPPORT. One lemma for each field and each update of the state: what the update leaves there. -/

namespace Sys2Proof.Machine

section Respond
variable {P : Parameters} (s : State P) (flag : Bool) (data : Word)
@[simp] theorem respond_containers : (s.respond flag data).containers = s.containers := rfl
@[simp] theorem respond_prng : (s.respond flag data).prng = s.prng := rfl
@[simp] theorem respond_samplers : (s.respond flag data).samplers = s.samplers := rfl
@[simp] theorem respond_esr : (s.respond flag data).esr = s.esr := rfl
@[simp] theorem respond_host : (s.respond flag data).host = s.host := rfl
@[simp] theorem respond_freeIndex : (s.respond flag data).freeIndex = s.freeIndex := rfl
@[simp] theorem respond_responses :
    (s.respond flag data).responses = s.responses ++ [responseWord .ok flag data] := rfl
@[simp] theorem respond_container (c : Fin P.nb) : (s.respond flag data).container c = s.container c := rfl
@[simp] theorem respond_sampler (u : Fin P.ns) : (s.respond flag data).sampler u = s.sampler u := rfl
end Respond

section Raise
variable {P : Parameters} (s : State P) (st : Status)
@[simp] theorem raise_containers : (s.raise st).containers = s.containers := rfl
@[simp] theorem raise_prng : (s.raise st).prng = s.prng := rfl
@[simp] theorem raise_samplers : (s.raise st).samplers = s.samplers := rfl
@[simp] theorem raise_esr : (s.raise st).esr = esrWith s.esr st := rfl
@[simp] theorem raise_host : (s.raise st).host = s.host := rfl
@[simp] theorem raise_freeIndex : (s.raise st).freeIndex = s.freeIndex := rfl
@[simp] theorem raise_responses : (s.raise st).responses = s.responses ++ [responseWord st false 0] := rfl
@[simp] theorem raise_container (c : Fin P.nb) : (s.raise st).container c = s.container c := rfl
@[simp] theorem raise_sampler (u : Fin P.ns) : (s.raise st).sampler u = s.sampler u := rfl
end Raise

section SetContainer
variable {P : Parameters} (s : State P) (c : Fin P.nb) (bits : List Bool)
@[simp] theorem setContainer_prng : (s.setContainer c bits).prng = s.prng := rfl
@[simp] theorem setContainer_samplers : (s.setContainer c bits).samplers = s.samplers := rfl
@[simp] theorem setContainer_esr : (s.setContainer c bits).esr = s.esr := rfl
@[simp] theorem setContainer_host : (s.setContainer c bits).host = s.host := rfl
@[simp] theorem setContainer_responses : (s.setContainer c bits).responses = s.responses := rfl
@[simp] theorem setContainer_freeIndex : (s.setContainer c bits).freeIndex = s.freeIndex := rfl
@[simp] theorem setContainer_sampler (u : Fin P.ns) : (s.setContainer c bits).sampler u = s.sampler u := rfl
@[simp] theorem setContainer_container_same : (s.setContainer c bits).container c = bits := by
  simp [State.setContainer, State.container]
@[simp] theorem setContainer_container_other (d : Fin P.nb) (h : d ≠ c) :
    (s.setContainer c bits).container d = s.container d := by
  have : c.val ≠ d.val := fun e => h (Fin.ext e.symm)
  simp [State.setContainer, State.container, this]
end SetContainer

section SetSampler
variable {P : Parameters} (s : State P) (u : Fin P.ns) (g : Sampler)
@[simp] theorem setSampler_containers : (s.setSampler u g).containers = s.containers := rfl
@[simp] theorem setSampler_prng : (s.setSampler u g).prng = s.prng := rfl
@[simp] theorem setSampler_esr : (s.setSampler u g).esr = s.esr := rfl
@[simp] theorem setSampler_host : (s.setSampler u g).host = s.host := rfl
@[simp] theorem setSampler_responses : (s.setSampler u g).responses = s.responses := rfl
@[simp] theorem setSampler_freeIndex : (s.setSampler u g).freeIndex = s.freeIndex := rfl
@[simp] theorem setSampler_container (c : Fin P.nb) : (s.setSampler u g).container c = s.container c := rfl
@[simp] theorem setSampler_sampler_same : (s.setSampler u g).sampler u = g := by
  simp [State.setSampler, State.sampler]
@[simp] theorem setSampler_sampler_other (v : Fin P.ns) (h : v ≠ u) :
    (s.setSampler u g).sampler v = s.sampler v := by
  have : u.val ≠ v.val := fun e => h (Fin.ext e.symm)
  simp [State.setSampler, State.sampler, this]
end SetSampler

section Restart
variable {P : Parameters} (s : State P)
@[simp] theorem restart_container (c : Fin P.nb) : s.restart.container c = [] := by
  simp [State.restart, State.container]
@[simp] theorem restart_seeded : s.restart.prng.seeded = false := rfl
@[simp] theorem restart_draws : s.restart.prng.draws = 0 := rfl
@[simp] theorem restart_sampler (u : Fin P.ns) :
    s.restart.sampler u = Sampler.restarted s.freeIndex u.val := by
  simp [State.restart, State.sampler]
@[simp] theorem restart_esr : s.restart.esr = 0 := rfl
@[simp] theorem restart_host : s.restart.host = s.host := rfl
@[simp] theorem restart_responses : s.restart.responses = s.responses := rfl
@[simp] theorem restarted_valid (k v : Nat) : (Sampler.restarted k v).valid = false := rfl
@[simp] theorem restarted_cursor (k v : Nat) : (Sampler.restarted k v).cursor = .invalid := rfl
end Restart

section Grown
variable {P : Parameters} (s : State P) (u : Fin P.ns) (g : Growth P.prng)
@[simp] theorem grown_containers : (s.grown u g).containers = s.containers := rfl
@[simp] theorem grown_prng : (s.grown u g).prng = g.prng := rfl
@[simp] theorem grown_esr : (s.grown u g).esr = s.esr := rfl
@[simp] theorem grown_host : (s.grown u g).host = s.host := rfl
@[simp] theorem grown_freeIndex : (s.grown u g).freeIndex = s.freeIndex := rfl
@[simp] theorem grown_responses : (s.grown u g).responses = s.responses ++ [responseWord .ok false 0] := rfl
@[simp] theorem grown_container (c : Fin P.nb) : (s.grown u g).container c = s.container c := rfl
@[simp] theorem grown_sampler_same :
    (s.grown u g).sampler u = { s.sampler u with tree := g.tree, count := g.count, cursor := .invalid } := by
  simp only [State.grown, respond_sampler, setSampler_sampler_same]
@[simp] theorem grown_sampler_other (v : Fin P.ns) (h : v ≠ u) : (s.grown u g).sampler v = s.sampler v := by
  simp only [State.grown, respond_sampler, setSampler_sampler_other _ _ _ _ h]; rfl
end Grown

section Growth
variable {P : Parameters} (s : State P) (u : Fin P.ns)
@[simp] theorem growth_prng : (s.growth u).prng = s.prng := rfl
@[simp] theorem growth_tree : (s.growth u).tree = (s.sampler u).tree := rfl
@[simp] theorem growth_count : (s.growth u).count = (s.sampler u).count := rfl
end Growth

section Prng
variable {G : Generator} (p : Prng G) (seed : Word)
@[simp] theorem seed_seeded : (Prng.seed seed : Prng G).seeded = true := rfl
@[simp] theorem seed_draws : (Prng.seed seed : Prng G).draws = 0 := rfl
@[simp] theorem seed_mt : (Prng.seed seed : Prng G).mt = (G.start seed).1 := rfl
@[simp] theorem seed_mti : (Prng.seed seed : Prng G).mti = (G.start seed).2 := rfl
@[simp] theorem draw_output : p.draw.1 = (G.next p.mt p.mti).1 := rfl
@[simp] theorem draw_seeded : p.draw.2.seeded = p.seeded := rfl
@[simp] theorem draw_draws : p.draw.2.draws = p.draws + 1 := rfl
@[simp] theorem draw_mt : p.draw.2.mt = (G.next p.mt p.mti).2.1 := rfl
@[simp] theorem draw_mti : p.draw.2.mti = (G.next p.mt p.mti).2.2 := rfl
end Prng

section Mt
variable (mt : Vector Word Config.mtWords) (i : Fin Config.mtWords)
@[simp] theorem mtTake_output : (mtTake mt i).1 = mtTemper (mt.get i) := rfl
@[simp] theorem mtTake_mt : (mtTake mt i).2.1 = mt := rfl
@[simp] theorem mtTake_mti : (mtTake mt i).2.2.val = i.val + 1 := rfl
end Mt

end Sys2Proof.Machine
end

