-- ==== Sys2Proof/Laws/Ops.lean ====
section
/-! SUPPORT. What each shared operation can do, said once, and the invariants of the memory it keeps. -/

namespace Sys2Proof.Machine

/-! ## Operand forms -/

/-- A unit field names a container exactly when its number is the container's. -/
theorem container?_eq_some (P : Parameters) (b : BitVec 4) (c : Fin P.nb) : container? P b = some c ↔ b.toNat = c.val := by
  unfold container?
  split
  · rename_i h
    simp [Fin.ext_iff]
  · rename_i h
    simp only [reduceCtorEq, false_iff]
    intro e
    exact h (e ▸ c.isLt)

/-- A unit field names no container exactly when its number is at or above `NB`. -/
theorem container?_eq_none (P : Parameters) (b : BitVec 4) : container? P b = none ↔ b.toNat ≥ P.nb := by
  unfold container?
  split
  · rename_i h
    simp only [reduceCtorEq, false_iff]
    exact Nat.not_le.mpr h
  · rename_i h
    exact ⟨fun _ => Nat.not_lt.mp h, fun _ => rfl⟩

/-- A unit field names a sampler exactly when its number is the sampler's. -/
theorem sampler?_eq_some (P : Parameters) (u : BitVec 4) (k : Fin P.ns) : sampler? P u = some k ↔ u.toNat = k.val := by
  unfold sampler?
  split
  · rename_i h
    simp [Fin.ext_iff]
  · rename_i h
    simp only [reduceCtorEq, false_iff]
    intro e
    exact h (e ▸ k.isLt)

/-- A unit field names no sampler exactly when its number is at or above `NS`. -/
theorem sampler?_eq_none (P : Parameters) (u : BitVec 4) : sampler? P u = none ↔ u.toNat ≥ P.ns := by
  unfold sampler?
  split
  · rename_i h
    simp only [reduceCtorEq, false_iff]
    exact Nat.not_le.mpr h
  · rename_i h
    exact ⟨fun _ => Nat.not_lt.mp h, fun _ => rfl⟩

/-- The bits of an integer are as many as asked for. -/
@[simp] theorem bitsOf_length {w : Nat} (n : Nat) (v : BitVec w) : (bitsOf n v).length = n := by
  induction n with
  | zero => rfl
  | succ n ih => simp [bitsOf, ih]

/-- Bit `j` of the sequence is bit `n-1-j` of the integer. -/
theorem bitsOf_getElem? {w : Nat} (n : Nat) (v : BitVec w) (j : Nat) (h : j < n) :
    (bitsOf n v)[j]? = some (v.getLsbD (n - 1 - j)) := by
  induction n generalizing j with
  | zero => omega
  | succ n ih =>
    cases j with
    | zero => simp [bitsOf]
    | succ j =>
      have e : n + 1 - 1 - (j + 1) = n - 1 - j := by omega
      rw [e, ← ih j (by omega)]
      rfl

/-! ## The response -/

/-- Every bit of a response word. -/
theorem responseWord_bit (st : Status) (flag : Bool) (data : Word) (i : Nat) :
    (responseWord st flag data).getLsbD i =
      if i < 32 then data.getLsbD i else if i < 33 then flag else if i < 56 then false
      else (BitVec.ofNat 8 st.code).getLsbD (i - 56) := by
  change BitVec.getLsbD (w := 8 + 23 + 1 + 32) (BitVec.ofNat 8 st.code ++ (0 : BitVec 23) ++ BitVec.ofBool flag ++ data) i = _
  rw [BitVec.getLsbD_append, BitVec.getLsbD_append, BitVec.getLsbD_append]
  by_cases h1 : i < 32
  · simp [h1]
  · by_cases h2 : i < 33
    · obtain rfl : i = 32 := by omega
      simp
    · by_cases h3 : i < 56
      · have a : ¬ i - 32 < 1 := by omega
        have b : i - 32 - 1 < 23 := by omega
        simp [h1, h2, h3, a, b]
      · have a : ¬ i - 32 < 1 := by omega
        have b : ¬ i - 32 - 1 < 23 := by omega
        have e : i - 32 - 1 - 23 = i - 56 := by omega
        simp [h1, h2, h3, a, b, e]

/-- The STATUS field of a response word. -/
theorem responseWord_status (st : Status) (flag : Bool) (data : Word) :
    (responseWord st flag data).extractLsb' 56 8 = BitVec.ofNat 8 st.code := by
  apply BitVec.eq_of_getLsbD_eq
  intro i hi
  rw [BitVec.getLsbD_extractLsb', responseWord_bit, if_neg (by omega), if_neg (by omega), if_neg (by omega)]
  simp [hi]

/-- Bits 55:33 of a response word are 0. -/
theorem responseWord_zero (st : Status) (flag : Bool) (data : Word) :
    (responseWord st flag data).extractLsb' 33 23 = 0 := by
  apply BitVec.eq_of_getLsbD_eq
  intro i hi
  rw [BitVec.getLsbD_extractLsb', responseWord_bit, if_neg (by omega), if_neg (by omega), if_pos (by omega)]
  simp

/-- The FLAG field of a response word. -/
theorem responseWord_flag (st : Status) (flag : Bool) (data : Word) :
    (responseWord st flag data).getLsbD 32 = flag := by
  rw [responseWord_bit, if_neg (by omega), if_pos (by omega)]

/-- The DATA field of a response word. -/
theorem responseWord_data (st : Status) (flag : Bool) (data : Word) :
    (responseWord st flag data).extractLsb' 0 32 = data := by
  apply BitVec.eq_of_getLsbD_eq
  intro i hi
  rw [BitVec.getLsbD_extractLsb', responseWord_bit, if_pos (by omega)]
  simp [hi]

/-- A status code fits its field. -/
theorem code_toNat (st : Status) : (BitVec.ofNat 8 st.code).toNat = st.code := by
  cases st <;> rfl

/-- What `respond` answers: one response, OK. -/
theorem responds_respond (s : State) (flag : Bool) (data : Word) (t : State)
    (h : t.responses = s.responses) : Responds s (t.respond flag data) 0 flag data :=
  ⟨responseWord .ok flag data, by simp [h], by rw [responseWord_status]; rfl, responseWord_zero ..,
    responseWord_flag .., responseWord_data ..⟩

/-- What `raise` does: the effect of an error with the status's code. -/
theorem fails_raise (s : State) (st : Status) (h : st ≠ .ok) : Fails s (s.raise st) st.code := by
  refine ⟨rfl, ⟨responseWord st false 0, rfl, ?_, responseWord_zero .., responseWord_flag .., responseWord_data ..⟩, ?_⟩
  · rw [responseWord_status, code_toNat]
  · intro i hi
    cases st <;> first
      | exact absurd rfl h
      | (simp only [raise_esr, esrWith, Status.code, BitVec.getLsbD_or]
         congr 1
         interval_cases i <;> rfl)

/-! ## Appends and growth -/

/-- What an append can do: all the bits where they fit, CONTAINER_FULL where they do not. -/
theorem append_cases {P : Parameters} (s : State P) (c : Fin P.nb) (bits : List Bool) :
    ((s.container c).length + bits.length ≤ P.bcap ∧
      s.append c bits = (s.setContainer c (s.container c ++ bits)).respond false 0) ∨
    ((s.container c).length + bits.length > P.bcap ∧ s.append c bits = s.raise .containerFull) := by
  unfold State.append
  split
  · exact .inr ⟨by assumption, rfl⟩
  · exact .inl ⟨by omega, rfl⟩

/-- What the growth of SGEN and SEXT can do when it answers a next state. -/
theorem growTo_next {P : Parameters} (s t : State P) (u : Fin P.ns) (target : Nat) (h : s.growTo u target = .next t) :
    (target > (s.sampler u).width.toNat * (s.sampler u).height.toNat ∧ t = s.raise .payloadTooLarge) ∨
    (target ≤ (s.sampler u).width.toNat * (s.sampler u).height.toNat ∧ target > P.ncap ∧ t = s.raise .nodeFull) ∨
    (target ≤ (s.sampler u).width.toNat * (s.sampler u).height.toNat ∧ target ≤ P.ncap ∧
      ∃ g, growLoop (s.sampler u).width (s.sampler u).height target (growFuel P) (s.growth u) = some g ∧
        t = s.grown u g) := by
  unfold State.growTo at h
  split at h
  · cases h
    exact .inl ⟨by assumption, rfl⟩
  · split at h
    · cases h
      exact .inr (.inl ⟨by omega, by assumption, rfl⟩)
    · split at h
      · rename_i g hg
        cases h
        exact .inr (.inr ⟨by omega, by omega, g, hg, rfl⟩)
      · cases h

/-- What one candidate does to the count. -/
theorem candidate_count {G : Generator} (width height : Component) (g : Growth G) :
    (g.candidate width height).count = g.count ∧ (g.candidate width height).tree = g.tree ∨
      (g.candidate width height).count = g.count + 1 := by
  simp only [Growth.candidate]
  split
  · exact .inr rfl
  · exact .inl ⟨rfl, rfl⟩

/-- What the loop answers: its state after the least number of candidates that reaches the target. -/
theorem growLoop_eq_some {G : Generator} (width height : Component) (target fuel : Nat) (g g' : Growth G)
    (h : growLoop width height target fuel g = some g') :
    ∃ k, k < fuel ∧ g' = g.after width height k ∧ target ≤ g'.count ∧
      ∀ i, i < k → (g.after width height i).count < target := by
  induction fuel generalizing g with
  | zero => simp [growLoop] at h
  | succ fuel ih =>
    unfold growLoop at h
    split at h
    · rename_i hlt
      obtain ⟨k, hk, e, ht, hmin⟩ := ih _ h
      refine ⟨k + 1, by omega, e, ht, ?_⟩
      intro i hi
      cases i with
      | zero => exact hlt
      | succ i => exact hmin i (by omega)
    · rename_i hge
      cases h
      exact ⟨0, by omega, rfl, by omega, by omega⟩

/-- More fuel changes nothing once the loop answers. -/
theorem growLoop_more_fuel {G : Generator} (width height : Component) (target fuel extra : Nat) (g g' : Growth G)
    (h : growLoop width height target fuel g = some g') :
    growLoop width height target (fuel + extra) g = some g' := by
  induction fuel generalizing g with
  | zero => simp [growLoop] at h
  | succ fuel ih =>
    rw [Nat.succ_add]
    unfold growLoop at h ⊢
    split
    · rename_i hlt
      rw [if_pos hlt] at h
      exact ih _ h
    · rename_i hge
      rwa [if_neg hge] at h

/-! ## The bit memory keeps its form -/

/-- Reset: every container is empty. -/
theorem reset_memory_wf : Memory.wf State.reset.containers := by
  intro b
  simp [State.reset, State.resetAt]

/-- A container given a content within its capacity. -/
theorem setContainer_memory_wf (s : State) (c : Fin Config.nb) (bits : List Bool) (h : Memory.wf s.containers)
    (hb : bits.length ≤ Config.bcap) : Memory.wf (s.setContainer c bits).containers := by
  intro d
  by_cases e : d = c
  · subst e
    simpa [State.setContainer] using hb
  · have := setContainer_container_other s c bits d e
    simp only [State.container] at this
    rw [this]
    exact h d

/-- An append keeps the form, whether it fits or not. -/
theorem append_memory_wf (s : State) (c : Fin Config.nb) (bits : List Bool) (h : Memory.wf s.containers) :
    Memory.wf (s.append c bits).containers := by
  rcases append_cases s c bits with ⟨hfit, e⟩ | ⟨_, e⟩
  · rw [e]
    exact setContainer_memory_wf s c _ h (by simpa using hfit)
  · rw [e]
    exact h

/-- A restart empties every container. -/
theorem restart_memory_wf (s : State) : Memory.wf s.restart.containers := by
  intro b
  simp [State.restart]

end Sys2Proof.Machine
end

