-- ==== Sys2Proof/Laws/Parametric.lean ====
section
/-! SUPPORT. KSBC is the machine under KSBC's configuration, and that configuration meets the constraints of
00_scope.md R9. -/

namespace Sys2Proof.Machine

/-- `exec` is the effect of a command under KSBC's configuration. -/
theorem exec_eq_execAt (i : Instr) (s : State) : exec i s = execAt Config.ksbc i s := by
  cases i <;> rfl

/-- `step` is the step under KSBC's configuration. -/
theorem step_eq_stepAt (s : State) : step s = stepAt Config.ksbc s := by
  have e : exec = execAt Config.ksbc := funext fun i => funext (exec_eq_execAt i)
  rw [step, stepAt, e]

/-- KSBC's parameters are within their constraints. -/
theorem ksbc_legal : Config.ksbc.legal = true := by decide

/-- The blocks of a container hold its capacity exactly, whenever the parameters are within their constraints
(10_state.md R27). -/
theorem blocks_mul_blockBits (P : Parameters) (h : P.legal = true) : P.blocks * P.blockBits = P.bcap := by
  simp only [Parameters.legal, Bool.and_eq_true, decide_eq_true_eq] at h
  exact Nat.div_mul_cancel (Nat.dvd_of_mod_eq_zero h.1.1.1.1.2)

/-- KSBC's `PRNG` reproduces the source's scenario. -/
theorem mt19937_reproducesReference : reproducesReference Config.mt19937 := by
  have first : (growLoop 10 15 3 4 (⟨Prng.seed 1, .nil, 0⟩ : Growth Config.mt19937)).map (fun g => preorder g.tree) =
      some [⟨4, 8⟩, ⟨3, 13⟩, ⟨5, 14⟩] := by decide +kernel
  have both : ((growLoop 10 15 3 4 (⟨Prng.seed 1, .nil, 0⟩ : Growth Config.mt19937)).bind (growLoop 10 15 4 2)).map
      (fun g => preorder g.tree) = some [⟨4, 8⟩, ⟨3, 13⟩, ⟨1, 11⟩, ⟨5, 14⟩] := by decide +kernel
  obtain ⟨g, hg, p⟩ := Option.map_eq_some_iff.mp first
  rw [hg] at both
  obtain ⟨g', hg', p'⟩ := Option.map_eq_some_iff.mp both
  exact ⟨4, 2, g, g', hg, p, hg', p'⟩

end Sys2Proof.Machine
end

