-- ==== Sys2Proof/Laws/PerInstr.lean ====
section
/-! SUPPORT. What holds of the encoding of every command, one lemma for each constructor. -/

namespace Sys2Proof.Laws.Spelling

/-- The encoding of a command agrees with its opcode under the mask of its format (30_encoding.md R82). -/
def Statement (i : Instr) : Prop := encode i &&& i.format.mask = i.opcode.setWidth 64 <<< 56

/-- A word of fields under a mask given field by field: each field under its own mask. -/
theorem wordOf_and (op : BitVec 8) (u v : BitVec 4) (n : BitVec 8) (imm : Word) (mu mv : BitVec 4) (mn : BitVec 8)
    (mi : Word) (m : Word64) (hm : m = (0xFF : BitVec 8) ++ mu ++ mv ++ (0xFF : BitVec 8) ++ mn ++ mi) (hu : u &&& mu = 0)
    (hv : v &&& mv = 0) (hn : n &&& mn = 0) (hi : imm &&& mi = 0) :
    wordOf op u v n imm &&& m = op.setWidth 64 <<< 56 := by
  subst hm
  change (op ++ u ++ v ++ (0 : BitVec 8) ++ n ++ imm : BitVec (8 + 4 + 4 + 8 + 8 + 32)) &&&
    ((0xFF : BitVec 8) ++ mu ++ mv ++ (0xFF : BitVec 8) ++ mn ++ mi) = _
  simp only [BitVec.and_append, hu, hv, hn, hi]
  revert op
  decide +kernel

/-- A bit operand has bit 0 only. -/
theorem bitField_and (bit : Bool) : bitField bit &&& 0xFE = 0 := by cases bit <;> rfl

theorem srst : Statement .srst :=
  wordOf_and _ _ _ _ _ 0xF 0xF 0xFF 0xFFFFFFFF _ rfl (by simp) (by simp) (by simp) (by simp)

theorem rdesr : Statement .rdesr :=
  wordOf_and _ _ _ _ _ 0xF 0xF 0xFF 0xFFFFFFFF _ rfl (by simp) (by simp) (by simp) (by simp)

theorem clresr : Statement .clresr :=
  wordOf_and _ _ _ _ _ 0xF 0xF 0xFF 0xFFFFFFFF _ rfl (by simp) (by simp) (by simp) (by simp)

theorem pseed (seed : Word) : Statement (.pseed seed) :=
  wordOf_and _ _ _ _ _ 0xF 0xF 0xFF 0x00000000 _ rfl (by simp) (by simp) (by simp) (by simp)

theorem pnext : Statement .pnext :=
  wordOf_and _ _ _ _ _ 0xF 0xF 0xFF 0xFFFFFFFF _ rfl (by simp) (by simp) (by simp) (by simp)

theorem pdraws : Statement .pdraws :=
  wordOf_and _ _ _ _ _ 0xF 0xF 0xFF 0xFFFFFFFF _ rfl (by simp) (by simp) (by simp) (by simp)

theorem bclr (b : BitVec 4) : Statement (.bclr b) :=
  wordOf_and _ _ _ _ _ 0x0 0xF 0xFF 0xFFFFFFFF _ rfl (by simp) (by simp) (by simp) (by simp)

theorem bpush (b : BitVec 4) (bit : Bool) : Statement (.bpush b bit) :=
  wordOf_and _ _ _ _ _ 0x0 0xF 0xFE 0xFFFFFFFF _ rfl (by simp) (by simp) (bitField_and _) (by simp)

theorem bpushv (b : BitVec 4) (nBits : BitVec 8) (value : Word) : Statement (.bpushv b nBits value) :=
  wordOf_and _ _ _ _ _ 0x0 0xF 0x00 0x00000000 _ rfl (by simp) (by simp) (by simp) (by simp)

theorem bput (b : BitVec 4) (byte : Byte) : Statement (.bput b byte) :=
  wordOf_and _ _ _ _ _ 0x0 0xF 0x00 0xFFFFFFFF _ rfl (by simp) (by simp) (by simp) (by simp)

theorem brd (b : BitVec 4) (index : Word) : Statement (.brd b index) :=
  wordOf_and _ _ _ _ _ 0x0 0xF 0xFF 0x00000000 _ rfl (by simp) (by simp) (by simp) (by simp)

theorem bwr (b : BitVec 4) (bit : Bool) (index : Word) : Statement (.bwr b bit index) :=
  wordOf_and _ _ _ _ _ 0x0 0xF 0xFE 0x00000000 _ rfl (by simp) (by simp) (bitField_and _) (by simp)

theorem bsize (b : BitVec 4) : Statement (.bsize b) :=
  wordOf_and _ _ _ _ _ 0x0 0xF 0xFF 0xFFFFFFFF _ rfl (by simp) (by simp) (by simp) (by simp)

theorem bempty (b : BitVec 4) : Statement (.bempty b) :=
  wordOf_and _ _ _ _ _ 0x0 0xF 0xFF 0xFFFFFFFF _ rfl (by simp) (by simp) (by simp) (by simp)

theorem btoint (b : BitVec 4) : Statement (.btoint b) :=
  wordOf_and _ _ _ _ _ 0x0 0xF 0xFF 0xFFFFFFFF _ rfl (by simp) (by simp) (by simp) (by simp)

theorem bfromint (b : BitVec 4) (width : BitVec 8) (value : Word) : Statement (.bfromint b width value) :=
  wordOf_and _ _ _ _ _ 0x0 0xF 0x00 0x00000000 _ rfl (by simp) (by simp) (by simp) (by simp)

theorem brdbyte (b : BitVec 4) (k : Word) : Statement (.brdbyte b k) :=
  wordOf_and _ _ _ _ _ 0x0 0xF 0xFF 0x00000000 _ rfl (by simp) (by simp) (by simp) (by simp)

theorem beq (b c : BitVec 4) : Statement (.beq b c) :=
  wordOf_and _ _ _ _ _ 0x0 0x0 0xFF 0xFFFFFFFF _ rfl (by simp) (by simp) (by simp) (by simp)

theorem sinit (u : BitVec 4) (width height : BitVec 16) : Statement (.sinit u width height) :=
  wordOf_and _ _ _ _ _ 0x0 0xF 0xFF 0x00000000 _ rfl (by simp) (by simp) (by simp) (by simp)

theorem sgen (u : BitVec 4) (n : Word) : Statement (.sgen u n) :=
  wordOf_and _ _ _ _ _ 0x0 0xF 0xFF 0x00000000 _ rfl (by simp) (by simp) (by simp) (by simp)

theorem sext (u : BitVec 4) (more : Word) : Statement (.sext u more) :=
  wordOf_and _ _ _ _ _ 0x0 0xF 0xFF 0x00000000 _ rfl (by simp) (by simp) (by simp) (by simp)

theorem sfind (u : BitVec 4) (x y : BitVec 16) : Statement (.sfind u x y) :=
  wordOf_and _ _ _ _ _ 0x0 0xF 0xFF 0x00000000 _ rfl (by simp) (by simp) (by simp) (by simp)

theorem scopy (d u : BitVec 4) : Statement (.scopy d u) :=
  wordOf_and _ _ _ _ _ 0x0 0x0 0xFF 0xFFFFFFFF _ rfl (by simp) (by simp) (by simp) (by simp)

theorem ssize (u : BitVec 4) : Statement (.ssize u) :=
  wordOf_and _ _ _ _ _ 0x0 0xF 0xFF 0xFFFFFFFF _ rfl (by simp) (by simp) (by simp) (by simp)

theorem sbegin (u : BitVec 4) : Statement (.sbegin u) :=
  wordOf_and _ _ _ _ _ 0x0 0xF 0xFF 0xFFFFFFFF _ rfl (by simp) (by simp) (by simp) (by simp)

theorem snext (u : BitVec 4) : Statement (.snext u) :=
  wordOf_and _ _ _ _ _ 0x0 0xF 0xFF 0xFFFFFFFF _ rfl (by simp) (by simp) (by simp) (by simp)

end Sys2Proof.Laws.Spelling
end

