-- ==== Sys2Proof/Tests/Slice0.lean ====
section
/-! SUPPORT. Tests of the model, their expected values taken from 30_encoding.md R87, 95_test_vectors.md,
96_test_vectors_families.md and 42_sampler.md R158, and the witnesses that the hypotheses of the statements can be met. -/

namespace Sys2Proof.Tests

open Machine

-- The tests are checked one after another: together they ask for more threads than a small machine has.
set_option Elab.async false

/-! ## Helpers -/

/-- Reset with a content in container 0. -/
def withBits (bits : List Bool) : State := State.reset.setContainer 0 bits

/-- Reset with contents in both containers. -/
def withBoth (bits other : List Bool) : State := (withBits bits).setContainer 1 other

/-- Reset with sampler 0 given. -/
def withSampler (g : Sampler) : State := State.reset.setSampler 0 g

/-- Reset with the source seeded and sampler 0 given. -/
def seededWith (seed : Word) (g : Sampler) : State := { withSampler g with prng := Prng.seed seed }

/-- An empty sampler over a domain. -/
def emptySampler (width height : BitVec 16) : Sampler := ⟨true, width, height, .nil, 0, .invalid⟩

/-- The tree of 95_test_vectors.md section 1.2, step 3. -/
def threeTree : CoordTree := .node (.node .nil ⟨3, 13⟩ .nil) ⟨4, 8⟩ (.node .nil ⟨5, 14⟩ .nil)

/-- The sampler of 95_test_vectors.md section 1.3 after SGEN, with a cursor. -/
def three (cursor : Cursor) : Sampler := ⟨true, 10, 15, threeTree, 3, cursor⟩

/-- The state a step answers. -/
def nextOf (o : Host.Outcome State Fault Refusal) : Option State :=
  match o with
  | .next t => some t
  | _ => none

/-- Whether a step answers a next state. -/
def answers (o : Host.Outcome State Fault Refusal) : Bool := (nextOf o).isSome

/-- A step that answers has a next state. -/
theorem answers_next (o : Host.Outcome State Fault Refusal) (h : answers o = true) : ∃ t, o = .next t := by
  cases o with
  | next t => exact ⟨t, rfl⟩
  | fault f => cases h
  | refused r => cases h

/-- The fault a step answers. -/
def faultOf (o : Host.Outcome State Fault Refusal) : Option Fault :=
  match o with
  | .fault f => some f
  | _ => none

/-- A step whose fault is known is that fault. -/
theorem faultOf_eq (o : Host.Outcome State Fault Refusal) (f : Fault) (h : faultOf o = some f) : o = .fault f := by
  cases o with
  | next t => cases h
  | fault g => exact congrArg _ (Option.some.inj h)
  | refused r => cases h

/-- One step on a command word. -/
def after (s : State) (w : Nat) : Option State := nextOf (step (s.withFetchWord 64 w))

/-- The response of one step on a command word. -/
def reply (s : State) (w : Nat) : Option Word64 := (after s w).bind fun t => t.responses.getLast?

/-- The content of container 0 after one step on a command word. -/
def bitsAfter (s : State) (w : Nat) : Option (List Bool) := (after s w).map fun t => t.container 0

/-- Sampler 0 after one step on a command word. -/
def samplerAfter (s : State) (w : Nat) : Option Sampler := (after s w).map fun t => t.sampler 0

/-- The bits of a numeral of the spec, as printed: index 0 first. -/
def printed (bits : List Nat) : List Bool := bits.map fun b => b == 1

/-! ## Well-formedness: each check refuses an ill-formed term -/

theorem test_illFormed_container : Instr.wellFormed (.bclr 2) = false := by decide

theorem test_illFormed_container_highest : Instr.wellFormed (.bsize 15) = false := by decide

theorem test_illFormed_second_container : Instr.wellFormed (.beq 0 2) = false := by decide

theorem test_illFormed_bit_count : Instr.wellFormed (.bpushv 0 33 0) = false := by decide

theorem test_illFormed_integer_width : Instr.wellFormed (.bfromint 0 255 0) = false := by decide

theorem test_illFormed_sampler : Instr.wellFormed (.ssize 2) = false := by decide

theorem test_illFormed_second_sampler : Instr.wellFormed (.scopy 0 2) = false := by decide

theorem test_illFormed_domain_width : Instr.wellFormed (.sinit 0 0 15) = false := by decide

theorem test_illFormed_domain_height : Instr.wellFormed (.sinit 0 10 0) = false := by decide

theorem test_wellFormed_limits :
    Instr.wellFormed (.bpushv 1 32 0) = true ∧ Instr.wellFormed (.bpushv 0 0 0) = true ∧ Instr.wellFormed (.sinit 1 1 65535) = true := by
  decide

/-! ## Decoding: every command's word, from the encoding tables and the vectors of the spec -/

theorem test_decode_system :
    decode 0x0100000000000000 = .ok (.srst)
    ∧ decode 0x0200000000000000 = .ok (.rdesr)
    ∧ decode 0x0300000000000000 = .ok (.clresr) := by
  decide

theorem test_decode_source :
    decode 0x10000000DEADBEEF = .ok (.pseed 0xDEADBEEF)
    ∧ decode 0x1100000000000000 = .ok (.pnext)
    ∧ decode 0x1200000000000000 = .ok (.pdraws) := by
  decide

theorem test_decode_container_appends :
    decode 0x2010000000000000 = .ok (.bclr 1)
    ∧ decode 0x2100000100000000 = .ok (.bpush 0 true)
    ∧ decode 0x2210000800000041 = .ok (.bpushv 1 8 0x41)
    ∧ decode 0x2300004100000000 = .ok (.bput 0 0x41) := by
  decide

theorem test_decode_container_reads :
    decode 0x240000000000FFFF = .ok (.brd 0 65535)
    ∧ decode 0x250000010000002A = .ok (.bwr 0 true 42)
    ∧ decode 0x2610000000000000 = .ok (.bsize 1)
    ∧ decode 0x2710000000000000 = .ok (.bempty 1) := by
  decide

theorem test_decode_container_integers :
    decode 0x2810000000000000 = .ok (.btoint 1)
    ∧ decode 0x29100005FFFFFFF5 = .ok (.bfromint 1 5 0xFFFFFFF5)
    ∧ decode 0x2A00000000001FFC = .ok (.brdbyte 0 8188)
    ∧ decode 0x2B01000000000000 = .ok (.beq 0 1) := by
  decide

theorem test_decode_sampler_growth :
    decode 0x30000000028001E0 = .ok (.sinit 0 640 480)
    ∧ decode 0x3150000000000009 = .ok (.sgen 5 9)
    ∧ decode 0x3210000000000078 = .ok (.sext 1 120)
    ∧ decode 0x330000000003000D = .ok (.sfind 0 3 13) := by
  decide

theorem test_decode_sampler_access :
    decode 0x3410000000000000 = .ok (.scopy 1 0)
    ∧ decode 0x3510000000000000 = .ok (.ssize 1)
    ∧ decode 0x3610000000000000 = .ok (.sbegin 1)
    ∧ decode 0x3720000000000000 = .ok (.snext 2) := by
  decide

theorem test_decode_reserved :
    decode 0x0000000000000000 = .error .unknownOpcode
    ∧ decode 0x4000000000000000 = .error .unknownOpcode
    ∧ decode 0x3150010000000009 = .error .reservedNonzero
    ∧ decode 0x22008000000000FF = .error .reservedNonzero
    ∧ decode 0x0100000000000001 = .error .unusedFieldNonzero
    ∧ decode 0x2120000200000000 = .error .unusedFieldNonzero
    ∧ decode 0x3401000000000001 = .error .unusedFieldNonzero := by
  decide

/-- Opcodes outside the 26 of 30_encoding.md R78. -/
theorem test_decode_unassigned :
    [0x00, 0x04, 0x0F, 0x13, 0x1F, 0x2C, 0x2F, 0x38, 0x40, 0x7F, 0x80, 0xFF].all (fun op => (row? op).isNone) = true := by
  decide

theorem test_decodeTableWord :
    decodeTableWord 64 0x3410000000000000 = some (.scopy 1 0) ∧ decodeTableWord 64 0 = none := by
  decide

/-- The two worked examples of 30_encoding.md R87. -/
theorem test_encode :
    encode (.bpushv 1 8 0x41) = 0x2210000800000041 ∧ encode (.sinit 0 10 15) = 0x30000000000A000F := by
  decide

/-! ## One step of each command -/

/-- 60_exceptions.md R220, 10_state.md R36. -/
theorem test_srst_restarts :
    (after { withBoth [true] [true] with esr := 0x20, prng := Prng.seed 1 } 0x0100000000000000).map
      (fun t => (t.containers.toList, t.esr, t.prng.seeded, t.responses)) = some ([[], []], 0, false, [0]) := by
  decide +kernel

/-- 95_test_vectors.md P5. -/
theorem test_rdesr :
    reply ({ State.reset with esr := 0x154 }) 0x0200000000000000 = some 0x0000000000000154 := by
  decide +kernel

/-- 95_test_vectors.md P5. -/
theorem test_clresr :
    (after { State.reset with esr := 0x154 } 0x0300000000000000).map (fun t => t.esr) = some 0 := by
  decide +kernel

/-- 96_test_vectors_families.md section 1.1. -/
theorem test_pseed_words :
    (after State.reset 0x1000000000000001).map (fun t => (t.prng.mt.toList.take 4, t.prng.mti.val)) =
      some ([0x00000001, 0x6C078966, 0xDD5254A5, 0xB9523B81], 624) := by
  decide +kernel

/-- 96_test_vectors_families.md section 1.1 and 1.2. -/
theorem test_pnext :
    reply ({ State.reset with prng := Prng.seed 1 }) 0x1100000000000000 = some 0x000000006AC1F425
    ∧ reply (State.reset) 0x1100000000000000 = some 0x0300000000000000 := by
  decide +kernel

/-- 96_test_vectors_families.md section 1.1. -/
theorem test_pnext_seed_5489 :
    reply ({ State.reset with prng := Prng.seed 5489 }) 0x1100000000000000 = some 0x00000000D091BB5C := by
  decide +kernel

/-- 95_test_vectors.md P3, 96_test_vectors_families.md section 1.2. -/
theorem test_pdraws :
    reply ({ State.reset with prng := { Prng.reset with seeded := true, draws := 96 } }) 0x1200000000000000 = some 0x0000000000000060
    ∧ reply (State.reset) 0x1200000000000000 = some 0x0000000000000000 := by
  decide +kernel

/-- 96_test_vectors_families.md section 2.1. -/
theorem test_bclr :
    bitsAfter (withBits [true, false]) 0x2000000000000000 = some [] ∧ reply State.reset 0x2020000000000000 = some 0x0200000000000000 := by
  decide +kernel

/-- 96_test_vectors_families.md section 2.1. -/
theorem test_bpush : bitsAfter (withBits [true]) 0x2100000000000000 = some [true, false] := by decide +kernel

/-- 96_test_vectors_families.md section 2.1. -/
theorem test_bpushv_first :
    bitsAfter State.reset 0x2200000600000035 = some (printed [1, 1, 0, 1, 0, 1]) := by
  decide +kernel

/-- 96_test_vectors_families.md section 2.1. -/
theorem test_bpushv_low_bits :
    bitsAfter (withBits (printed [1, 1, 0, 1, 0, 1])) 0x22000004000000FF = some (printed [1, 1, 0, 1, 0, 1, 1, 1, 1, 1])
    ∧ reply State.reset 0x2200002100000000 = some 0x0200000000000000 := by
  decide +kernel

/-- 95_test_vectors.md section 2. -/
theorem test_bput :
    bitsAfter (withBits (printed [0, 1, 0, 0, 0, 0, 0, 1])) 0x2300004200000000 =
      some (printed [0, 1, 0, 0, 0, 0, 0, 1, 0, 1, 0, 0, 0, 0, 1, 0]) := by
  decide +kernel

/-- 96_test_vectors_families.md section 2.1. -/
theorem test_brd :
    reply (withBits (printed [1, 1, 0, 1, 0, 1, 1, 1, 1, 1])) 0x2400000000000002 = some 0x0000000000000000
    ∧ reply (withBits (printed [1, 1, 0, 1, 0, 1, 1, 1, 1, 1])) 0x2400000000000003 = some 0x0000000100000000
    ∧ reply (withBits (printed [1, 1, 0, 1, 0, 1, 1, 1, 1, 1])) 0x240000000000000A = some 0x0800000000000000 := by
  decide +kernel

/-- 40_bitcontainer.md R108. -/
theorem test_bwr :
    bitsAfter (withBits (printed [1, 1, 0])) 0x2500000000000000 = some (printed [0, 1, 0])
    ∧ reply (withBits (printed [1, 1, 0])) 0x2500000100000003 = some 0x0800000000000000 := by
  decide +kernel

/-- 96_test_vectors_families.md section 2.1. -/
theorem test_bsize :
    reply (withBits (printed [1, 1, 0, 1, 0, 1, 1, 1, 1, 1])) 0x2600000000000000 = some 0x000000000000000A := by
  decide +kernel

/-- 96_test_vectors_families.md section 2.1. -/
theorem test_bempty :
    reply (State.reset) 0x2710000000000000 = some 0x0000000100000000
    ∧ reply (withBits [false]) 0x2700000000000000 = some 0x0000000000000000 := by
  decide +kernel

/-- 96_test_vectors_families.md section 2.1. -/
theorem test_btoint :
    reply (withBits (printed [1, 1, 0, 1, 0, 1, 1, 1, 1, 1])) 0x2800000000000000 = some 0x000000000000035F
    ∧ reply (State.reset) 0x2800000000000000 = some 0x0000000000000000
    ∧ reply (withBits (List.replicate 33 true)) 0x2800000000000000 = some 0x0800000000000000 := by
  decide +kernel

/-- 96_test_vectors_families.md section 2.1. -/
theorem test_bfromint :
    bitsAfter (withBits (printed [1, 1, 0])) 0x29000005FFFFFFF5 = some (printed [1, 0, 1, 0, 1])
    ∧ reply State.reset 0x2900002100000000 = some 0x0200000000000000 := by
  decide +kernel

/-- 96_test_vectors_families.md sections 2.1 and 2.2. -/
theorem test_brdbyte :
    reply (withBits (printed [1, 1, 0, 1, 0, 1, 1, 1, 1, 1])) 0x2A00000000000000 = some 0x00000000000000D7
    ∧ reply (withBits (printed [1, 1, 0, 1, 0, 1, 1, 1, 1, 1])) 0x2A00000000000001 = some 0x0800000000000000
    ∧ reply (withBits [true]) 0x2A00000020000000 = some 0x0800000000000000 := by
  decide +kernel

/-- 96_test_vectors_families.md section 2.1. -/
theorem test_beq :
    reply (withBoth [false, false] [false]) 0x2B01000000000000 = some 0x0000000000000000
    ∧ reply (withBoth [false, false] [false, false]) 0x2B01000000000000 = some 0x0000000100000000
    ∧ reply (withBoth [false, false] [false, true]) 0x2B01000000000000 = some 0x0000000000000000 := by
  decide +kernel

/-- 96_test_vectors_families.md section 3.7. -/
theorem test_sinit :
    samplerAfter (withSampler (three (.position 3))) 0x30000000000A000F = some ⟨true, 10, 15, .nil, 0, .invalid⟩ := by
  decide +kernel

/-- 95_test_vectors.md section 1.2. -/
theorem test_sgen :
    samplerAfter (seededWith 1 (emptySampler 10 15)) 0x3100000000000003 = some (three .invalid) := by
  decide +kernel

/-- 95_test_vectors.md section 3.2, 96_test_vectors_families.md section 3.6. -/
theorem test_sgen_checks :
    reply (State.reset) 0x3150000000000009 = some 0x0200000000000000
    ∧ reply (State.reset) 0x3100000000000009 = some 0x0300000000000000
    ∧ reply (seededWith 0 (emptySampler 10 15)) 0x3110000000000001 = some 0x0400000000000000
    ∧ reply (seededWith 0 (emptySampler 10 15)) 0x31000000EE6B2800 = some 0x0600000000000000
    ∧ reply (seededWith 0 (emptySampler 1000 1000)) 0x3100000000010001 = some 0x0700000000000000 := by
  decide +kernel

/-- 96_test_vectors_families.md sections 3.3 and 3.6. -/
theorem test_sext_checks :
    reply (seededWith 0 (emptySampler 1000 1000)) 0x3200000000010001 = some 0x0700000000000000
    ∧ reply (seededWith 0 (emptySampler 1000 1000)) 0x32000000FFFFFFFF = some 0x0600000000000000
    ∧ reply (seededWith 0 (emptySampler 1 1)) 0x3200000000000001 = some 0x0000000000000000 := by
  decide +kernel

/-- 96_test_vectors_families.md section 3.3. -/
theorem test_sext_draw :
    (after (seededWith 7 (emptySampler 1 1)) 0x3200000000000001).map (fun t => (t.prng.draws, t.sampler 0)) =
      some (2, ⟨true, 1, 1, .node .nil ⟨0, 0⟩ .nil, 1, .invalid⟩) := by
  decide +kernel

/-- 96_test_vectors_families.md section 3.1. -/
theorem test_sfind :
    reply (withSampler (three .invalid)) 0x330000000003000D = some 0x0000000100000000
    ∧ reply (withSampler (three .invalid)) 0x330000000003000C = some 0x0000000000000000
    ∧ reply (withSampler (three .invalid)) 0x33000000000D0003 = some 0x0000000000000000 := by
  decide +kernel

/-- 96_test_vectors_families.md section 3.7. -/
theorem test_scopy :
    (after (withSampler (three (.position 1))) 0x3410000000000000).map (fun t => (t.sampler 0, t.sampler 1)) =
      some (three (.position 1), three .invalid) := by
  decide +kernel

/-- 95_test_vectors.md section 1.3, 96_test_vectors_families.md section 3.3. -/
theorem test_ssize :
    reply (withSampler (three .invalid)) 0x3500000000000000 = some 0x0000000000000003
    ∧ reply (State.reset) 0x3500000000000000 = some 0x0400000000000000 := by
  decide +kernel

/-- 95_test_vectors.md section 1.3, 96_test_vectors_families.md section 3.7. -/
theorem test_sbegin :
    reply (withSampler (three .invalid)) 0x3600000000000000 = some 0x0000000000000000
    ∧ reply (withSampler (emptySampler 10 15)) 0x3600000000000000 = some 0x0000000100000000 := by
  decide +kernel

/-- 95_test_vectors.md section 1.3. -/
theorem test_snext :
    reply (withSampler (three (.position 0))) 0x3700000000000000 = some 0x0000000000040008
    ∧ reply (withSampler (three (.position 1))) 0x3700000000000000 = some 0x000000000003000D
    ∧ reply (withSampler (three (.position 2))) 0x3700000000000000 = some 0x000000000005000E
    ∧ reply (withSampler (three (.position 3))) 0x3700000000000000 = some 0x0000000100000000 := by
  decide +kernel

/-- 95_test_vectors.md section 3.2. -/
theorem test_snext_checks :
    reply (withSampler (three .invalid)) 0x3700000000000000 = some 0x0500000000000000
    ∧ reply (withSampler (three .invalid)) 0x3710000000000000 = some 0x0400000000000000
    ∧ reply (withSampler (three .invalid)) 0x3720000000000000 = some 0x0200000000000000 := by
  decide +kernel

/-- 95_test_vectors.md section 3.1. -/
theorem test_illegal_word :
    reply (State.reset) 0x0000000000000000 = some 0x0100000000000000
    ∧ reply (State.reset) 0x2120000200000000 = some 0x0100000000000000
    ∧ reply (State.reset) 0x3150010000000009 = some 0x0100000000000000 := by
  decide +kernel

/-- 96_test_vectors_families.md section 3.1. -/
theorem test_ins_illustrations :
    (([⟨0, 0⟩, ⟨0, 1⟩, ⟨0, 2⟩, ⟨0, 3⟩, ⟨0, 4⟩, ⟨0, 5⟩, ⟨0, 6⟩] : List Coord).foldl (fun t c => (ins t c).1) .nil) =
      CoordTree.node (.node (.node .nil ⟨0, 0⟩ .nil) ⟨0, 1⟩ (.node .nil ⟨0, 2⟩ .nil)) ⟨0, 3⟩
        (.node (.node .nil ⟨0, 4⟩ .nil) ⟨0, 5⟩ (.node .nil ⟨0, 6⟩ .nil))
    ∧ (([⟨0, 65535⟩, ⟨1, 0⟩, ⟨0, 0⟩] : List Coord).foldl (fun t c => (ins t c).1) .nil) =
      CoordTree.node (.node .nil ⟨0, 0⟩ .nil) ⟨0, 65535⟩ (.node .nil ⟨1, 0⟩ .nil) := by
  decide

/-- A configuration of one container of 32 bits and one sampler of one member. -/
abbrev oneContainer : Parameters := { Config.ksbc with nb := 1, bcap := 32, ns := 1, ncap := 1 }

/-- The status of the last response of one step on a command word under that configuration, from reset with 32 bits
in container 0. -/
def statusAt (w : Word64) : Option Nat :=
  match stepAt oneContainer { (State.resetAt oneContainer).setContainer 0 (List.replicate 32 true) with
      host := [.command w], prng := Prng.seed 1,
      samplers := #v[⟨true, 10, 15, .nil, 0, .invalid⟩] } with
  | .next t => t.responses.getLast?.map fun r => (r.extractLsb' 56 8).toNat
  | _ => none

/-- Under a smaller configuration: unit 1 does not exist, 32 bits are the capacity, a second member is NODE_FULL
(40_bitcontainer.md R100, R101; 42_sampler.md R159). -/
theorem test_other_configuration :
    oneContainer.legal = true ∧ statusAt 0x2610000000000000 = some 2 ∧ statusAt 0x2100000100000000 = some 9 ∧
      statusAt 0x3510000000000000 = some 2 ∧ statusAt 0x3100000000000002 = some 7 ∧
      statusAt 0x3100000000000001 = some 0 := by decide +kernel

/-! ## Witnesses: concrete states and operands that meet the hypotheses of the statements -/

/-- A container of a given length. -/
def sized (n : Nat) : State := withBits (List.replicate n false)

@[simp] theorem sized_length (n : Nat) : ((sized n).container 0).length = n := by simp [sized, withBits]

/-- The source whose words are all zero: it answers 0 for ever. -/
def zeroSource (mti : Fin (Config.mtWords + 1)) (draws : BitVec 32) : Prng Config.mt19937 :=
  ⟨true, Vector.replicate Config.mtWords 0, mti, draws⟩

/-- Reset with the all-zero source, seeded, and sampler 0 given. -/
def zeroWith (g : Sampler) : State := { withSampler g with prng := zeroSource 0 0 }

/-- A sampler over 2 by 1 that has (0,0). -/
def oneOfTwo : Sampler := ⟨true, 2, 1, .node .nil ⟨0, 0⟩ .nil, 1, .invalid⟩

/-- A sampler over 256 by 256 whose COUNT is `NCAP`: a state no run reaches with this tree. -/
def atCapacity : Sampler := ⟨true, 256, 256, .nil, 65536, .invalid⟩

/-- A sampler whose open cursor is no position: a state no run reaches. -/
def strayCursor : State := withSampler ⟨true, 1, 1, .nil, 0, .position 1⟩

/-- The host presents a word to a state. -/
def presented (s : State) (w : Word64) : State := { s with host := [.command w] }

theorem witness_SpellingIsUnique : decode 0x2500000100000006 = .ok (.bwr 0 true 6) := by decide

theorem witness_DecodeAgreesWithTable :
    (∃ i, decode 0x3410000000000000 = .ok i) ∧ spells 0x3410000000000000 = true ∧ spells 0x3401000000000001 = false :=
  ⟨⟨.scopy 1 0, by decide⟩, by decide, by decide⟩

/-- The ranges of a regeneration, at their ends. -/
theorem witness_RegenerationIsInPlace : 0 < 624 ∧ 226 < 227 ∧ ¬ 227 < 227 ∧ 622 < 623 ∧ ¬ 623 < 623 ∧ 623 < 624 := by
  decide

theorem witness_StepRunsDecodedCommand :
    (presented State.reset 0x2100000100000000).host = .command 0x2100000100000000 :: [] ∧
      decode 0x2100000100000000 = .ok (.bpush 0 true) := by decide

theorem witness_IdleKeepsAllState : State.reset.host = [] := rfl

theorem witness_IllegalWordAnswersOne :
    (presented State.reset 0x2120000200000000).host = .command 0x2120000200000000 :: [] ∧
      spells 0x2120000200000000 = false := by decide

theorem witness_ErrorsArePrecise :
    (presented State.reset 0x1100000000000000).host = .command 0x1100000000000000 :: [] ∧
      ∃ t, step (presented State.reset 0x1100000000000000) = .next t := ⟨rfl, answers_next _ (by decide +kernel)⟩

theorem witness_LowestCodeIsReported_illegal :
    spells 0 = false ∧ ∃ t, step (presented State.reset 0) = .next t :=
  ⟨by decide, answers_next _ (by decide +kernel)⟩

theorem witness_LowestCodeIsReported_ok :
    decode 0x2100000100000000 = .ok (.bpush 0 true) ∧ errorCodes (.bpush 0 true) (sized 0) = [] ∧
      ∃ t, step (presented (sized 0) 0x2100000100000000) = .next t :=
  ⟨by decide, by decide +kernel, answers_next _ (by decide +kernel)⟩

theorem witness_LowestCodeIsReported_error :
    decode 0x31000000EE6B2800 = .ok (.sgen 0 0xEE6B2800) ∧
      errorCodes (.sgen 0 0xEE6B2800) (zeroWith (emptySampler 10 15)) = 6 :: [7] ∧
      ∃ t, step (presented (zeroWith (emptySampler 10 15)) 0x31000000EE6B2800) = .next t :=
  ⟨by decide, by decide +kernel, answers_next _ (by decide +kernel)⟩

theorem witness_IllegalOperandAnswersTwo : Instr.wellFormed (.bpushv 0 33 0) = false := by decide

theorem witness_EsrNeverInfluences : Instr.pdraws ≠ .rdesr ∧ ∃ t, exec .pdraws State.reset = .next t :=
  ⟨by decide, answers_next _ (by decide +kernel)⟩

theorem witness_EsrNeverInfluences_fault :
    Instr.snext 0 ≠ .rdesr ∧ exec (.snext 0) strayCursor = .fault .cursorOutsideTree :=
  ⟨by decide, faultOf_eq _ _ (by decide +kernel)⟩

theorem witness_RstAbandonsAndResets :
    ({ State.reset with host := [.reset (some 0x1100000000000000)] } : State).host =
      .reset (some 0x1100000000000000) :: [] := rfl

theorem witness_PnextAnswersNextOutput :
    (zeroWith oneOfTwo).prng.seeded = true ∧ (zeroWith oneOfTwo).prng.mti.val = 0 ∧
      State.reset.prng.seeded = false ∧ (Prng.seed 1 : Prng Config.mt19937).mti.val = 624 := ⟨rfl, rfl, rfl, rfl⟩

theorem witness_DrawsCountCandidatesInPairs :
    (∃ t, exec .srst State.reset = .next t) ∧ (∃ t, exec (.pseed 1) State.reset = .next t) ∧
      (∃ t, exec .pnext (zeroWith oneOfTwo) = .next t) ∧ (∃ t, exec .pnext State.reset = .next t) ∧
      (∃ t, exec (.sgen 0 1) (zeroWith (emptySampler 1 1)) = .next t) ∧ ∃ t, exec .pdraws State.reset = .next t :=
  ⟨answers_next _ (by decide +kernel), answers_next _ (by decide +kernel), answers_next _ (by decide +kernel),
    answers_next _ (by decide +kernel), answers_next _ (by decide +kernel), answers_next _ (by decide +kernel)⟩

/-- The unit hypotheses of every container statement: the lowest and highest number without a container, and both
containers. -/
theorem witness_BclrEmptiesContainer :
    (2 : BitVec 4).toNat ≥ Config.nb ∧ (15 : BitVec 4).toNat ≥ Config.nb ∧
      (0 : BitVec 4).toNat = (0 : Fin Config.nb).val ∧ (1 : BitVec 4).toNat = (1 : Fin Config.nb).val := by decide

theorem witness_BclrEmptiesContainer_shorter :
    ∃ t, exec (.bclr 0) (withBits [true]) = .next t ∧ (t.container 0).length < ((withBits [true]).container 0).length :=
  ⟨_, rfl, by decide⟩

theorem witness_BpushAppendsOneBit :
    (0 : BitVec 4).toNat = (0 : Fin Config.nb).val ∧ ((sized 65535).container 0).length + 1 ≤ Config.bcap ∧
      ((sized 65536).container 0).length + 1 > Config.bcap := by
  simp only [sized_length]; decide

theorem witness_BpushvAppendsMsbFirst :
    (0 : BitVec 4).toNat = (0 : Fin Config.nb).val ∧ (33 : BitVec 8).toNat > 32 ∧ (32 : BitVec 8).toNat ≤ 32 ∧
      ((sized 65504).container 0).length + (32 : BitVec 8).toNat ≤ Config.bcap ∧
      ((sized 65505).container 0).length + (32 : BitVec 8).toNat > Config.bcap := by
  simp only [sized_length]; decide

theorem witness_BputAppendsByte :
    (0 : BitVec 4).toNat = (0 : Fin Config.nb).val ∧ ((sized 65528).container 0).length + 8 ≤ Config.bcap ∧
      ((sized 65529).container 0).length + 8 > Config.bcap := by
  simp only [sized_length]; decide

theorem witness_BrdReadsBit :
    (0 : BitVec 4).toNat = (0 : Fin Config.nb).val ∧ (65535 : Word).toNat < ((sized 65536).container 0).length ∧
      (65536 : Word).toNat ≥ ((sized 65536).container 0).length ∧ (0 : Word).toNat ≥ ((sized 0).container 0).length := by
  simp only [sized_length]; decide

theorem witness_BwrWritesBit :
    (0 : BitVec 4).toNat = (0 : Fin Config.nb).val ∧ (41 : Word).toNat < ((sized 42).container 0).length ∧
      (42 : Word).toNat ≥ ((sized 42).container 0).length := by
  simp only [sized_length]; decide

theorem witness_BsizeReadsLength :
    (0 : BitVec 4).toNat = (0 : Fin Config.nb).val ∧ ((sized 65536).container 0).length ≤ Config.bcap := by
  simp only [sized_length]; decide

theorem witness_BemptyTestsLength : (1 : BitVec 4).toNat = (1 : Fin Config.nb).val ∧ (2 : BitVec 4).toNat ≥ Config.nb := by
  decide

theorem witness_BtointReadsInteger :
    (0 : BitVec 4).toNat = (0 : Fin Config.nb).val ∧ ((sized 32).container 0).length ≤ 32 ∧
      ((sized 33).container 0).length > 32 := by
  simp only [sized_length]; decide

theorem witness_BfromintReplacesContent :
    (0 : BitVec 4).toNat = (0 : Fin Config.nb).val ∧ (32 : BitVec 8).toNat ≤ 32 ∧ (33 : BitVec 8).toNat > 32 ∧
      (0x1F : Word).toNat < 2 ^ (5 : BitVec 8).toNat ∧ (0 : Word).toNat < 2 ^ (0 : BitVec 8).toNat := by decide

theorem witness_BrdbyteReadsWholeByte :
    (0 : BitVec 4).toNat = (0 : Fin Config.nb).val ∧ 8 * (1 : Word).toNat + 8 ≤ ((sized 16).container 0).length ∧
      8 * (1 : Word).toNat + 8 > ((sized 15).container 0).length ∧
      8 * (0x20000000 : Word).toNat + 8 > ((sized 65536).container 0).length := by
  simp only [sized_length]; decide

theorem witness_BeqComparesContents :
    (2 : BitVec 4).toNat ≥ Config.nb ∧ (0 : BitVec 4).toNat = (0 : Fin Config.nb).val ∧
      (1 : BitVec 4).toNat = (1 : Fin Config.nb).val := by decide

theorem witness_AppendsAreAssociative :
    (0 : BitVec 4).toNat = (0 : Fin Config.nb).val ∧ (6 : BitVec 8).toNat + (26 : BitVec 8).toNat ≤ 32 ∧
      (53 : Word).toNat < 2 ^ (6 : BitVec 8).toNat ∧ (15 : Word).toNat < 2 ^ (26 : BitVec 8).toNat ∧
      ((sized 65504).container 0).length + (6 : BitVec 8).toNat + (26 : BitVec 8).toNat ≤ Config.bcap := by
  simp only [sized_length]; decide

theorem witness_ByteStringRoundTrip :
    (0 : BitVec 4).toNat = (0 : Fin Config.nb).val ∧ 8 * ([0x41, 0x42] : List Byte).length ≤ Config.bcap ∧
      8 * (List.replicate 8192 (0 : Byte)).length ≤ Config.bcap := by
  simp only [List.length_replicate]; decide

theorem witness_FindDecidesMembership : searchTree threeTree = true := by decide

theorem witness_InsertKeepsAvlSearchTree : searchTree threeTree = true ∧ balanced threeTree = true := by decide

theorem witness_TraversalHasNoDuplicate : searchTree threeTree = true ∧ preorder threeTree ≠ [] := by decide

theorem witness_NavigationVisitsPreorder : (preorder threeTree).length ≤ 3 := by decide

/-- What MT19937 answers from all-zero words without a regeneration. -/
theorem mtTake_zero (i : Fin Config.mtWords) :
    mtTake (Vector.replicate Config.mtWords 0) i = (0, Vector.replicate Config.mtWords 0, i.succ) := by
  refine Prod.ext ?_ rfl
  rw [mtTake_output, show (Vector.replicate Config.mtWords (0 : Word)).get i = 0 by simp [Vector.get]]
  exact (by decide : mtTemper 0 = 0)

/-- What the all-zero source draws without a regeneration. -/
theorem zeroSource_take (mti : Fin (Config.mtWords + 1)) (draws : BitVec 32) (i : Fin Config.mtWords)
    (h : mti.val = i.val) : (zeroSource mti draws).draw = (0, zeroSource i.succ (draws + 1)) := by
  have e : mtOutput (Vector.replicate Config.mtWords 0) mti = (0, Vector.replicate Config.mtWords 0, i.succ) := by
    rw [mtOutput, dif_pos (by omega), ← mtTake_zero]
    congr
  simp only [Prng.draw, zeroSource, e]

/-- Both clauses: (0,0) is a member of one tree and not of the other. -/
theorem witness_CandidateSpendsTwoDraws :
    searchTree oneOfTwo.tree = true ∧ (2 : BitVec 16) ≠ 0 ∧ (1 : BitVec 16) ≠ 0 ∧
      (zeroWith oneOfTwo).prng.draw = (0, zeroSource 1 1) ∧ (zeroSource 1 1).draw = (0, zeroSource 2 2) ∧
      (0 : BitVec 16).toNat = (0 : Word).toNat % (2 : BitVec 16).toNat ∧
      (0 : BitVec 16).toNat = (0 : Word).toNat % (1 : BitVec 16).toNat ∧
      (⟨0, 0⟩ : Coord) ∈ preorder oneOfTwo.tree ∧ (⟨0, 0⟩ : Coord) ∉ preorder .nil ∧ searchTree .nil = true :=
  ⟨by decide, by decide, by decide, zeroSource_take 0 0 0 rfl, zeroSource_take 1 1 1 rfl, by decide, by decide, by decide,
    by decide, rfl⟩

theorem witness_FuelRunsOutOnlyWhereLoopNeverEnds : 65536 ≤ Config.ncap := by decide

theorem witness_SinitCreatesEmptySampler :
    (2 : BitVec 4).toNat ≥ Config.ns ∧ (0 : BitVec 16) = 0 ∧ (1 : BitVec 4).toNat = (1 : Fin Config.ns).val ∧
      (1 : BitVec 16) ≠ 0 ∧ (65535 : BitVec 16) ≠ 0 := by decide

/-- The failing clauses of SGEN and SEXT, each at the first value past the limit. -/
theorem witness_SgenGrowsToTarget_checks :
    (0 : BitVec 4).toNat = (0 : Fin Config.ns).val ∧ State.reset.prng.seeded = false ∧
      (zeroWith Sampler.reset).prng.seeded = true ∧ ((zeroWith Sampler.reset).sampler 0).valid = false ∧
      ((zeroWith (emptySampler 10 15)).sampler 0).valid = true ∧
      (151 : Word).toNat > (10 : BitVec 16).toNat * (15 : BitVec 16).toNat ∧
      (65537 : Word).toNat ≤ (256 : BitVec 16).toNat * (257 : BitVec 16).toNat ∧ (65537 : Word).toNat > Config.ncap := by
  decide +kernel

/-- SGEN over the whole of a 1 by 1 domain: the target is reached after one candidate and not before. -/
theorem witness_SgenGrowsToTarget :
    (zeroWith (emptySampler 1 1)).prng.seeded = true ∧ ((zeroWith (emptySampler 1 1)).sampler 0).valid = true ∧
      (1 : Word).toNat ≤ ((zeroWith (emptySampler 1 1)).sampler 0).width.toNat *
        ((zeroWith (emptySampler 1 1)).sampler 0).height.toNat ∧
      (1 : Word).toNat ≤ Config.ncap ∧ (1 : Word).toNat ≤ (((zeroWith (emptySampler 1 1)).growth 0).after 1 1 1).count ∧
      ∀ i, i < 1 → (((zeroWith (emptySampler 1 1)).growth 0).after 1 1 i).count < (1 : Word).toNat := by
  decide +kernel

/-- SGEN with a target of `NCAP` in a state that has as many: no candidate is needed. -/
theorem witness_SgenGrowsToTarget_capacity :
    (zeroWith atCapacity).prng.seeded = true ∧ ((zeroWith atCapacity).sampler 0).valid = true ∧
      (65536 : Word).toNat ≤ ((zeroWith atCapacity).sampler 0).width.toNat * ((zeroWith atCapacity).sampler 0).height.toNat ∧
      (65536 : Word).toNat ≤ Config.ncap ∧ (65536 : Word).toNat ≤ (((zeroWith atCapacity).growth 0).after 256 256 0).count := by
  decide +kernel

/-- SEXT by 1 over the whole of a 1 by 1 domain, and the failing clauses one past the limits. -/
theorem witness_SextGrowsByCount :
    (zeroWith (emptySampler 1 1)).prng.seeded = true ∧ ((zeroWith (emptySampler 1 1)).sampler 0).valid = true ∧
      ((zeroWith (emptySampler 1 1)).sampler 0).count + (1 : Word).toNat ≤
        (((zeroWith (emptySampler 1 1)).growth 0).after 1 1 1).count ∧
      (∀ i, i < 1 → (((zeroWith (emptySampler 1 1)).growth 0).after 1 1 i).count <
        ((zeroWith (emptySampler 1 1)).sampler 0).count + (1 : Word).toNat) ∧
      ((zeroWith oneOfTwo).sampler 0).count + (2 : Word).toNat > (2 : BitVec 16).toNat * (1 : BitVec 16).toNat ∧
      ((zeroWith atCapacity).sampler 0).count + (1 : Word).toNat > Config.ncap ∧
      (65537 : Word).toNat = ((zeroWith atCapacity).sampler 0).count + (1 : Word).toNat := by
  decide +kernel

/-- The well-formed state the sampler witnesses use. -/
theorem zeroWith_oneOfTwo_wf : (zeroWith oneOfTwo).wf := by decide +kernel

/-- The three-member sampler of the spec is in form, at the start and at the end of its traversal. -/
theorem three_wf : (three (.position 0)).wf ∧ (three (.position 3)).wf ∧ (three .invalid).wf := by decide +kernel

theorem witness_GrowthByNothingClosesCursor :
    (0 : BitVec 4).toNat = (0 : Fin Config.ns).val ∧ (zeroWith oneOfTwo).prng.seeded = true ∧ (zeroWith oneOfTwo).wf ∧
      ((zeroWith oneOfTwo).sampler 0).valid = true ∧ (1 : Word).toNat ≤ ((zeroWith oneOfTwo).sampler 0).count :=
  ⟨by decide, rfl, zeroWith_oneOfTwo_wf, by decide +kernel, by decide +kernel⟩

/-- Growth by 0 and then by 1, to the whole of a 1 by 1 domain. -/
theorem witness_ExtensionsCompose :
    (zeroWith (emptySampler 1 1)).prng.seeded = true ∧ ((zeroWith (emptySampler 1 1)).sampler 0).valid = true ∧
      (0 : Word).toNat + (1 : Word).toNat < 2 ^ 32 ∧
      ((zeroWith (emptySampler 1 1)).sampler 0).count + (0 : Word).toNat + (1 : Word).toNat ≤
        ((zeroWith (emptySampler 1 1)).sampler 0).width.toNat * ((zeroWith (emptySampler 1 1)).sampler 0).height.toNat ∧
      ((zeroWith (emptySampler 1 1)).sampler 0).count + (0 : Word).toNat + (1 : Word).toNat ≤ Config.ncap ∧
      ∃ t t', exec (.sext 0 0) (zeroWith (emptySampler 1 1)) = .next t ∧ exec (.sext 0 1) t = .next t' := by
  refine ⟨by decide +kernel, by decide +kernel, by decide, by decide +kernel, by decide +kernel, ?_⟩
  obtain ⟨t', h⟩ := answers_next (execAll [.sext 0 0, .sext 0 1] (zeroWith (emptySampler 1 1))) (by decide +kernel)
  simp only [execAll] at h
  split at h
  · rename_i t e
    refine ⟨t, t', e, ?_⟩
    split at h
    · rename_i t2 e2
      cases h
      exact e2
    · cases h
    · cases h
  · cases h
  · cases h

theorem witness_SfindTestsMembership :
    (2 : BitVec 4).toNat ≥ Config.ns ∧ (0 : BitVec 4).toNat = (0 : Fin Config.ns).val ∧
      (State.reset.sampler 0).valid = false ∧ ((withSampler (three .invalid)).sampler 0).valid = true ∧
      ((withSampler (three .invalid)).sampler 0).wf ∧
      (10 : BitVec 16).toNat ≥ ((withSampler (three .invalid)).sampler 0).width.toNat := by decide +kernel

theorem witness_SsizeReadsCount :
    (0 : BitVec 4).toNat = (0 : Fin Config.ns).val ∧ (State.reset.sampler 0).valid = false ∧
      ((withSampler (three .invalid)).sampler 0).valid = true ∧ ((withSampler (three .invalid)).sampler 0).wf := by
  decide +kernel

theorem witness_ScopyCopiesStructure :
    (2 : BitVec 4).toNat ≥ Config.ns ∧ (1 : BitVec 4).toNat = (1 : Fin Config.ns).val ∧
      (0 : BitVec 4).toNat = (0 : Fin Config.ns).val ∧ (State.reset.sampler 0).valid = false ∧
      ((withSampler (three .invalid)).sampler 0).valid = true := by decide +kernel

theorem witness_SbeginOpensTraversal :
    (2 : BitVec 4).toNat ≥ Config.ns ∧ (0 : BitVec 4).toNat = (0 : Fin Config.ns).val ∧
      (State.reset.sampler 0).valid = false ∧ ((withSampler (three .invalid)).sampler 0).valid = true := by
  decide +kernel

theorem witness_SnextReturnsElement :
    (0 : BitVec 4).toNat = (0 : Fin Config.ns).val ∧ ((withSampler (three .invalid)).sampler 0).valid = true ∧
      ((withSampler (three .invalid)).sampler 0).cursor = .invalid ∧
      ((withSampler (three (.position 3))).sampler 0).cursor =
        .position ((withSampler (three (.position 3))).sampler 0).count ∧
      ((withSampler (three (.position 2))).sampler 0).cursor = .position 2 ∧
      2 ≠ ((withSampler (three (.position 2))).sampler 0).count ∧
      (preorder ((withSampler (three (.position 2))).sampler 0).tree)[2]? = some ⟨5, 14⟩ := by decide +kernel

theorem witness_TraversalAnswersPreorder :
    (0 : BitVec 4).toNat = (0 : Fin Config.ns).val ∧ ((withSampler (three .invalid)).sampler 0).valid = true ∧
      ((withSampler (three .invalid)).sampler 0).wf := by decide +kernel

theorem witness_CursorsCloseOnlyByRule :
    (∃ t, exec (.sgen 0 1) (zeroWith (emptySampler 1 1)) = .next t) ∧
      errorCodes (.sgen 0 1) (zeroWith (emptySampler 1 1)) = [] ∧
      (∃ t, exec (.sgen 0 2) (zeroWith (emptySampler 1 1)) = .next t) ∧
      errorCodes (.sgen 0 2) (zeroWith (emptySampler 1 1)) ≠ [] ∧
      ∃ t, step { State.reset with host := [.reset none] } = .next t :=
  ⟨answers_next _ (by decide +kernel), by decide +kernel, answers_next _ (by decide +kernel), by decide +kernel,
    answers_next _ (by decide +kernel)⟩

theorem witness_CursorsCloseOnlyByRule_traversal :
    (∃ t, exec (.snext 0) (withSampler (three .invalid)) = .next t) ∧
      errorCodes (.snext 0) (withSampler (three .invalid)) ≠ [] ∧ (1 : BitVec 4).toNat ≠ (0 : Fin Config.ns).val :=
  ⟨answers_next _ (by decide +kernel), by decide +kernel, by decide⟩

theorem witness_MembersOnlyGrow :
    (∃ t, exec (.sext 0 0) (zeroWith oneOfTwo) = .next t) ∧ ((zeroWith oneOfTwo).sampler 0).valid = true ∧
      Instr.sext 0 0 ≠ .srst ∧ (∀ u w h, Instr.sext 0 0 = .sinit u w h → u.toNat ≠ (0 : Fin Config.ns).val) ∧
      (∀ d u, Instr.sext 0 0 = .scopy d u → d.toNat ≠ (0 : Fin Config.ns).val) ∧
      (⟨0, 0⟩ : Coord) ∈ preorder ((zeroWith oneOfTwo).sampler 0).tree :=
  ⟨answers_next _ (by decide +kernel), by decide +kernel, by decide, by simp, by simp, by decide +kernel⟩

theorem witness_CopyAndExtendSplits :
    (zeroWith (emptySampler 1 1)).wf ∧ (1 : BitVec 4).toNat = (1 : Fin Config.ns).val ∧
      (0 : BitVec 4).toNat = (0 : Fin Config.ns).val ∧ (1 : Fin Config.ns) ≠ 0 ∧
      (zeroWith (emptySampler 1 1)).prng.seeded = true ∧ ((zeroWith (emptySampler 1 1)).sampler 0).valid = true ∧
      ((zeroWith (emptySampler 1 1)).sampler 0).count + (1 : Word).toNat ≤
        ((zeroWith (emptySampler 1 1)).sampler 0).width.toNat * ((zeroWith (emptySampler 1 1)).sampler 0).height.toNat ∧
      ((zeroWith (emptySampler 1 1)).sampler 0).count + (1 : Word).toNat ≤ Config.ncap ∧
      ∃ t t', exec (.scopy 1 0) (zeroWith (emptySampler 1 1)) = .next t ∧ exec (.sext 1 1) t = .next t' := by
  refine ⟨by decide +kernel, by decide, by decide, by decide, by decide +kernel, by decide +kernel, by decide +kernel,
    by decide +kernel, ?_⟩
  obtain ⟨t', h⟩ := answers_next (execAll [.scopy 1 0, .sext 1 1] (zeroWith (emptySampler 1 1))) (by decide +kernel)
  simp only [execAll] at h
  split at h
  · rename_i t e
    refine ⟨t, t', e, ?_⟩
    split at h
    · rename_i t2 e2
      cases h
      exact e2
    · cases h
    · cases h
  · cases h
  · cases h

theorem witness_StepKeepsWellFormed :
    (presented (zeroWith oneOfTwo) 0x3600000000000000).wf ∧
      ∃ t, step (presented (zeroWith oneOfTwo) 0x3600000000000000) = .next t :=
  ⟨by decide +kernel, answers_next _ (by decide +kernel)⟩

/-- Two states that differ in what is unobservable and run on, and one that stops. -/
theorem witness_UnspecifiedStateIsUnobservable :
    SameVisible (presented State.reset 0x1200000000000000)
        { presented State.reset 0x1200000000000000 with prng := { Prng.reset with mti := 5 }, freeIndex := 3 } ∧
      (∃ t, step (presented State.reset 0x1200000000000000) = .next t) ∧
      SameVisible (presented strayCursor 0x3700000000000000)
        { presented strayCursor 0x3700000000000000 with freeIndex := 3 } ∧
      step (presented strayCursor 0x3700000000000000) = .fault .cursorOutsideTree :=
  ⟨⟨rfl, rfl, rfl, by decide, fun u => ⟨rfl, fun _ => rfl⟩, rfl, rfl, rfl⟩, answers_next _ (by decide +kernel),
    ⟨rfl, rfl, rfl, fun _ => rfl, fun u => ⟨rfl, fun _ => rfl⟩, rfl, rfl, rfl⟩, faultOf_eq _ _ (by decide +kernel)⟩

/-! ## A run in which SGEN never answers -/

/-- The words a regeneration makes of zeros are zeros. -/
theorem mtTwistTo_zero (k : Nat) :
    mtTwistTo (Vector.replicate Config.mtWords 0) k = Vector.replicate Config.mtWords 0 := by
  induction k with
  | zero => rfl
  | succ k ih =>
    simp only [mtTwistTo, ih]
    ext i hi
    simp [mtTwistWord, mtGet]

/-- A draw of the all-zero source is 0, and the source stays so. -/
theorem zeroSource_draw (mti : Fin (Config.mtWords + 1)) (draws : BitVec 32) :
    ∃ mti' draws', (zeroSource mti draws).draw = (0, zeroSource mti' draws') := by
  by_cases h : mti.val < Config.mtWords
  · exact ⟨_, _, zeroSource_take mti draws ⟨mti.val, h⟩ rfl⟩
  · have e : mtOutput (Vector.replicate Config.mtWords 0) mti =
        (0, Vector.replicate Config.mtWords 0, (⟨0, by decide⟩ : Fin Config.mtWords).succ) := by
      rw [mtOutput, dif_neg h, ← mtTake_zero, mtRegenerate, mtTwistTo_zero]
    exact ⟨_, draws + 1, by simp only [Prng.draw, zeroSource, e]; rfl⟩

/-- Every candidate of that source is (0,0): rejected, for ever. -/
theorem growLoop_never (fuel : Nat) (mti : Fin (Config.mtWords + 1)) (draws : BitVec 32) :
    growLoop 2 1 2 fuel (⟨zeroSource mti draws, oneOfTwo.tree, 1⟩ : Growth Config.mt19937) = none := by
  induction fuel generalizing mti draws with
  | zero => rfl
  | succ fuel ih =>
    obtain ⟨m1, d1, e1⟩ := zeroSource_draw mti draws
    obtain ⟨m2, d2, e2⟩ := zeroSource_draw m1 d1
    have : Growth.candidate 2 1 (⟨zeroSource mti draws, oneOfTwo.tree, 1⟩ : Growth Config.mt19937) =
        ⟨zeroSource m2 d2, oneOfTwo.tree, 1⟩ := by
      simp only [Growth.candidate, e1, e2]
      rfl
    rw [growLoop, if_pos (show 1 < 2 by decide), this]
    exact ih m2 d2

/-- A step on a presented word that decodes to SGEN, its first three checks met. -/
theorem step_presented_sgen (s : State) (w : Word64) (u : BitVec 4) (n : Word) (k : Fin Config.ns)
    (hd : decode w = .ok (.sgen u n)) (hu : sampler? Config.ksbc u = some k) (hs : s.prng.seeded = true)
    (hv : (s.sampler k).valid = true) : step (presented s w) = ({ s with host := [] } : State).growTo k n.toNat := by
  have hv' : (({ s with host := [] } : State).sampler k).valid = true := hv
  simp only [step, takeEvent, presented, hd, exec, execSgen, hu, hs, hv', Bool.not_true, Bool.false_eq_true, if_false]

theorem witness_OnlyEndlessGrowthStops :
    (presented (zeroWith oneOfTwo) 0x3100000000000002).wf ∧
      step (presented (zeroWith oneOfTwo) 0x3100000000000002) = .fault .neverResponds := by
  refine ⟨by decide +kernel, ?_⟩
  rw [step_presented_sgen _ _ 0 2 0 (by decide) (by decide) rfl (by decide)]
  have hw : (({ zeroWith oneOfTwo with host := [] } : State).sampler 0).width = 2 := by decide
  have hh : (({ zeroWith oneOfTwo with host := [] } : State).sampler 0).height = 1 := by decide
  have hg : ({ zeroWith oneOfTwo with host := [] } : State).growth 0 = ⟨zeroSource 0 0, oneOfTwo.tree, 1⟩ := rfl
  have hn : (2 : Word).toNat = 2 := by decide
  generalize ({ zeroWith oneOfTwo with host := [] } : State) = s at *
  unfold State.growTo
  simp only [hw, hh, hg, hn, growLoop_never]
  rw [if_neg (by decide), if_neg (by decide)]

end Sys2Proof.Tests
end

section
/-! Proofs of the statements of 00_scope.md: a step on a presented command word (R19), and the order on coordinates
(R13). -/

namespace Sys2Proof

/-! ## The host's next event -/

section TakeEvent
open Machine
variable {P : Parameters} (run : Instr → State P → Host.Outcome (State P) Fault Refusal) {s : State P} {w : Word64}
  {rest : List HostEvent}

/-- A word that decodes is run, whatever gives the commands their effect. -/
theorem takeEvent_decoded {i : Instr} (hs : s.host = .command w :: rest) (hw : decode w = .ok i) :
    takeEvent run s = run i { s with host := rest } := by
  rw [takeEvent, hs]
  simp only [hw]

end TakeEvent

/-- Settles O5: KSBC's step takes the event with `exec` for the effect of the command. -/
theorem stepRunsDecodedCommand : Obligations.StepRunsDecodedCommand :=
  fun _ _ _ _ hs hw => takeEvent_decoded Machine.exec hs hw

/-! ## Packed coordinates -/

namespace Coord

/-- The order is lexicographic, `x` first (00_scope.md R13). -/
theorem lt_iff (a b : Coord) :
    a.lt b = true ↔ a.x.toNat < b.x.toNat ∨ (a.x = b.x ∧ a.y.toNat < b.y.toNat) := by
  simp only [lt, Bool.or_eq_true, Bool.and_eq_true, decide_eq_true_eq, beq_iff_eq]

/-- `x` is the digit of weight `2 ^ 16` of the packed word and `y` the digit below it. -/
theorem pack_toNat (c : Coord) : c.pack.toNat = c.x.toNat * 2 ^ 16 + c.y.toNat := by
  rw [pack, BitVec.toNat_append, ← Nat.shiftLeft_add_eq_or_of_lt c.y.isLt, Nat.shiftLeft_eq]

/-- `x` is in bits 31:16 of the packed word. -/
theorem pack_high (c : Coord) : c.pack.extractLsb' 16 16 = c.x := BitVec.extractLsb'_append_eq_left

/-- `y` is in bits 15:0 of the packed word. -/
theorem pack_low (c : Coord) : c.pack.extractLsb' 0 16 = c.y := BitVec.extractLsb'_append_eq_right

/-- The order is the unsigned order of the packed words: both digits are below `2 ^ 16`, so the larger `x` outweighs
any `y`, and equal `x` leave the comparison to `y`. -/
theorem lt_iff_pack (a b : Coord) : a.lt b = true ↔ a.pack.toNat < b.pack.toNat := by
  have hay : a.y.toNat < 2 ^ 16 := a.y.isLt
  have hby : b.y.toNat < 2 ^ 16 := b.y.isLt
  rw [lt_iff, pack_toNat, pack_toNat, ← BitVec.toNat_inj]
  omega

end Coord

/-- Settles O37, from the two readings of the order and the two fields of a packed word. -/
theorem coordOrderIsPackedOrder : Obligations.CoordOrderIsPackedOrder :=
  fun a b => ⟨a.lt_iff b, a.lt_iff_pack b, a.pack_high, a.pack_low⟩

end Sys2Proof
end

section
/-! Proofs of the statements of 10_state.md, part one: what insertion does to a tree (R30 items 1, 2 and 6, by
42_sampler.md R154 to R157). The in-order sequence, which no rotation changes, carries the search order. -/

namespace Sys2Proof.Machine

/-! ## The in-order sequence -/

/-- The in-order sequence of a tree: the left subtree, the key, the right subtree. -/
def inorder : CoordTree → List Coord
  | .nil => []
  | .node l k r => inorder l ++ k :: inorder r

/-- Both traversals list the same keys. -/
theorem inorder_perm_preorder (t : CoordTree) : (inorder t).Perm (preorder t) := by
  induction t with
  | nil => exact .nil
  | node l k r ihl ihr => exact List.perm_middle.trans ((ihl.append ihr).cons k)

theorem mem_inorder {t : CoordTree} {c : Coord} : c ∈ inorder t ↔ c ∈ preorder t :=
  (inorder_perm_preorder t).mem_iff

/-- The in-order sequence is strictly increasing. -/
def Increasing (cs : List Coord) : Prop := cs.Pairwise fun a b => a.lt b = true

theorem coord_lt_trans {a b c : Coord} (hab : a.lt b = true) (hbc : b.lt c = true) : a.lt c = true := by
  rw [Coord.lt_iff_pack] at *
  omega

/-- Of two different coordinates one is less. -/
theorem coord_lt_of_not_lt {a b : Coord} (hne : a ≠ b) (hnot : ¬ a.lt b = true) : b.lt a = true := by
  rw [Coord.lt_iff_pack] at *
  have : a.pack.toNat ≠ b.pack.toNat := fun e => hne <| by
    have hp : a.pack = b.pack := BitVec.eq_of_toNat_eq e
    have hx : a.x = b.x := by rw [← a.pack_high, ← b.pack_high, hp]
    have hy : a.y = b.y := by rw [← a.pack_low, ← b.pack_low, hp]
    cases a; cases b
    exact congrArg₂ Coord.mk hx hy
  omega

/-- The keys around a node, in order: each side increasing, left keys below the node's and right keys above it. -/
theorem increasing_node {l r : CoordTree} {k : Coord} :
    Increasing (inorder (.node l k r)) ↔
      Increasing (inorder l) ∧ Increasing (inorder r) ∧ (∀ c ∈ preorder l, c.lt k = true) ∧
        ∀ c ∈ preorder r, k.lt c = true := by
  simp only [Increasing, inorder, List.pairwise_append, List.pairwise_cons, List.forall_mem_cons, mem_inorder]
  constructor
  · rintro ⟨hl, ⟨hkr, hr⟩, hlr⟩
    exact ⟨hl, hr, fun c hc => (hlr c hc).1, hkr⟩
  · rintro ⟨hl, hr, hlk, hkr⟩
    exact ⟨hl, ⟨hkr, hr⟩, fun c hc => ⟨hlk c hc, fun d hd => coord_lt_trans (hlk c hc) (hkr d hd)⟩⟩

/-- A search tree is one whose in-order sequence is increasing. -/
theorem searchTree_iff_increasing (t : CoordTree) : searchTree t = true ↔ Increasing (inorder t) := by
  induction t with
  | nil => exact ⟨fun _ => .nil, fun _ => rfl⟩
  | node l k r ihl ihr =>
    rw [increasing_node, ← ihl, ← ihr]
    simp only [searchTree, Bool.and_eq_true, List.all_eq_true]
    tauto

/-! ## Rotations and rebalancing -/

theorem inorder_rotR (t : CoordTree) : inorder (rotR t) = inorder t := by
  unfold rotR
  split
  · simp [inorder]
  · rfl

theorem inorder_rotL (t : CoordTree) : inorder (rotL t) = inorder t := by
  unfold rotL
  split
  · simp [inorder]
  · rfl

/-- What rebalancing makes of a node that is 2 higher on the left: a right rotation, of the left child first where that
leans right (42_sampler.md R157). -/
def mendLeft (l : CoordTree) (k : Coord) (r : CoordTree) : CoordTree :=
  if leftHeight l ≥ rightHeight l then rotR (.node l k r) else rotR (.node (rotL l) k r)

/-- What rebalancing makes of a node that is 2 higher on the right: the mirror image. -/
def mendRight (l : CoordTree) (k : Coord) (r : CoordTree) : CoordTree :=
  if rightHeight r ≥ leftHeight r then rotL (.node l k r) else rotL (.node l k (rotR r))

theorem inorder_mendLeft (l : CoordTree) (k : Coord) (r : CoordTree) :
    inorder (mendLeft l k r) = inorder (.node l k r) := by
  unfold mendLeft
  split <;> simp only [inorder_rotR, inorder, inorder_rotL]

theorem inorder_mendRight (l : CoordTree) (k : Coord) (r : CoordTree) :
    inorder (mendRight l k r) = inorder (.node l k r) := by
  unfold mendRight
  split <;> simp only [inorder_rotL, inorder, inorder_rotR]

/-- What rebalancing can do. -/
theorem rebalance_cases (l : CoordTree) (k : Coord) (r : CoordTree) :
    (height l = height r + 2 ∧ rebalance l k r = mendLeft l k r) ∨
    (height r = height l + 2 ∧ rebalance l k r = mendRight l k r) ∨
    (height l ≠ height r + 2 ∧ height r ≠ height l + 2 ∧ rebalance l k r = .node l k r) := by
  have hb : balanceFactor (.node l k r) = (height l : Int) - height r := rfl
  by_cases h2 : balanceFactor (.node l k r) = 2
  · exact .inl ⟨by omega, by simp only [rebalance, if_pos h2, mendLeft]⟩
  · by_cases h2' : balanceFactor (.node l k r) = -2
    · exact .inr (.inl ⟨by omega, by simp only [rebalance, if_neg h2, if_pos h2', mendRight]⟩)
    · exact .inr (.inr ⟨by omega, by omega, by simp only [rebalance, if_neg h2, if_neg h2']⟩)

/-- Rebalancing changes the shape only. -/
theorem inorder_rebalance (l : CoordTree) (k : Coord) (r : CoordTree) :
    inorder (rebalance l k r) = inorder (.node l k r) := by
  obtain ⟨-, e⟩ | ⟨-, e⟩ | ⟨-, -, e⟩ := rebalance_cases l k r
  · rw [e, inorder_mendLeft]
  · rw [e, inorder_mendRight]
  · rw [e]

theorem balanced_node {l r : CoordTree} {k : Coord} :
    balanced (.node l k r) = true ↔
      height l ≤ height r + 1 ∧ height r ≤ height l + 1 ∧ balanced l = true ∧ balanced r = true := by
  simp only [balanced, Bool.and_eq_true, decide_eq_true_eq, and_assoc]

/-- A balanced tree as high as a node over two subtrees, or one less where their heights differ by 2. -/
def Mended (t l r : CoordTree) : Prop :=
  balanced t = true ∧ (height t = 1 + max (height l) (height r) ∨
    (height l = height r + 2 ∨ height r = height l + 2) ∧ height t = max (height l) (height r))

theorem mendLeft_mended {l r : CoordTree} (k : Coord) (hl : balanced l = true) (hr : balanced r = true)
    (h : height l = height r + 2) : Mended (mendLeft l k r) l r := by
  cases l with
  | nil => simp [height] at h
  | node a p b =>
    obtain ⟨hab, hba, ha, hb⟩ := balanced_node.mp hl
    unfold mendLeft Mended
    split
    next hge =>
      simp only [leftHeight, rightHeight] at hge
      simp only [rotR, height, balanced_node, ha, hb, hr, and_true, true_and] at h ⊢
      omega
    next hlt =>
      simp only [leftHeight, rightHeight] at hlt
      cases b with
      | nil => simp [height] at hlt
      | node b x c =>
        obtain ⟨hbc, hcb, hb, hc⟩ := balanced_node.mp hb
        simp only [rotL, rotR, height, balanced_node, ha, hb, hc, hr, and_true, true_and] at *
        omega

theorem mendRight_mended {l r : CoordTree} (k : Coord) (hl : balanced l = true) (hr : balanced r = true)
    (h : height r = height l + 2) : Mended (mendRight l k r) l r := by
  cases r with
  | nil => simp [height] at h
  | node b q c =>
    obtain ⟨hbc, hcb, hb, hc⟩ := balanced_node.mp hr
    unfold mendRight Mended
    split
    next hge =>
      simp only [leftHeight, rightHeight] at hge
      simp only [rotL, height, balanced_node, hb, hc, hl, and_true] at h ⊢
      omega
    next hlt =>
      simp only [leftHeight, rightHeight] at hlt
      cases b with
      | nil => simp [height] at hlt
      | node a x b =>
        obtain ⟨hab, hba, ha, hb⟩ := balanced_node.mp hb
        simp only [rotL, rotR, height, balanced_node, ha, hb, hc, hl, and_true] at *
        omega

/-- Rebalancing mends subtrees whose heights differ by 2 at most. -/
theorem rebalance_mended {l r : CoordTree} (k : Coord) (hl : balanced l = true) (hr : balanced r = true)
    (hlr : height l ≤ height r + 2) (hrl : height r ≤ height l + 2) : Mended (rebalance l k r) l r := by
  obtain ⟨h, e⟩ | ⟨h, e⟩ | ⟨hl2, hr2, e⟩ := rebalance_cases l k r
  · exact e ▸ mendLeft_mended k hl hr h
  · exact e ▸ mendRight_mended k hl hr h
  · rw [e]
    exact ⟨balanced_node.mpr ⟨by omega, by omega, hl, hr⟩, .inl rfl⟩

/-! ## Insertion -/

/-- What insertion at a node can do: nothing, or an insertion that grows one subtree, and a rebalancing. -/
theorem ins_node_cases (l : CoordTree) (k : Coord) (r : CoordTree) (c : Coord) :
    ins (.node l k r) c = (.node l k r, false) ∨
    (c.lt k = true ∧ (ins l c).2 = true ∧ ins (.node l k r) c = (rebalance (ins l c).1 k r, true)) ∨
    (k.lt c = true ∧ (ins r c).2 = true ∧ ins (.node l k r) c = (rebalance l k (ins r c).1, true)) := by
  rw [ins]
  split
  next => exact .inl rfl
  next hne =>
    split
    next hlt =>
      split
      next e => exact .inr (.inl ⟨hlt, by rw [e], by rw [e]⟩)
      next => exact .inl rfl
    next hnot =>
      split
      next e => exact .inr (.inr ⟨coord_lt_of_not_lt hne hnot, by rw [e], by rw [e]⟩)
      next => exact .inl rfl

/-- Where insertion says that the tree grew, it has added the coordinate and nothing else. It needs no search order. -/
theorem inorder_ins_of_grew {t : CoordTree} {c : Coord} (h : (ins t c).2 = true) :
    (inorder (ins t c).1).Perm (c :: inorder t) := by
  induction t with
  | nil => exact List.Perm.refl _
  | node l k r ihl ihr =>
    obtain e | ⟨-, hl, e⟩ | ⟨-, hr, e⟩ := ins_node_cases l k r c
    · rw [e] at h
      cases h
    · rw [e, inorder_rebalance]
      exact (ihl hl).append_right (k :: inorder r)
    · rw [e, inorder_rebalance]
      calc inorder l ++ k :: inorder (ins r c).1
        _ |>.Perm (inorder l ++ k :: c :: inorder r) := ((ihr hr).cons k).append_left _
        _ |>.Perm (inorder l ++ c :: k :: inorder r) := (List.Perm.swap c k _).append_left _
        _ |>.Perm (c :: (inorder l ++ k :: inorder r)) := List.perm_middle

theorem mem_preorder_ins_of_grew {t : CoordTree} {c d : Coord} (h : (ins t c).2 = true) :
    d ∈ preorder (ins t c).1 ↔ d = c ∨ d ∈ preorder t := by
  rw [← mem_inorder, (inorder_ins_of_grew h).mem_iff, List.mem_cons, mem_inorder]

theorem length_preorder_ins_of_grew {t : CoordTree} {c : Coord} (h : (ins t c).2 = true) :
    (preorder (ins t c).1).length = (preorder t).length + 1 := by
  rw [← (inorder_perm_preorder _).length_eq, (inorder_ins_of_grew h).length_eq, List.length_cons,
    (inorder_perm_preorder t).length_eq]

/-- Insertion keeps the search order (42_sampler.md R156; 10_state.md R30 item 1). -/
theorem searchTree_ins {t : CoordTree} (c : Coord) (h : searchTree t = true) : searchTree (ins t c).1 = true := by
  rw [searchTree_iff_increasing] at *
  induction t with
  | nil => simp [ins, inorder, Increasing]
  | node l k r ihl ihr =>
    obtain ⟨hl, hr, hlk, hkr⟩ := increasing_node.mp h
    obtain e | ⟨hck, hg, e⟩ | ⟨hkc, hg, e⟩ := ins_node_cases l k r c
    · rwa [e]
    · rw [e, inorder_rebalance]
      refine increasing_node.mpr ⟨ihl hl, hr, fun d hd => ?_, hkr⟩
      obtain rfl | hd := (mem_preorder_ins_of_grew hg).mp hd
      · exact hck
      · exact hlk d hd
    · rw [e, inorder_rebalance]
      refine increasing_node.mpr ⟨hl, ihr hr, hlk, fun d hd => ?_⟩
      obtain rfl | hd := (mem_preorder_ins_of_grew hg).mp hd
      · exact hkc
      · exact hkr d hd

/-- Insertion keeps the balance and adds one to the height at most (42_sampler.md R157; 10_state.md R30 item 2). -/
theorem balanced_ins {t : CoordTree} (c : Coord) (h : balanced t = true) :
    balanced (ins t c).1 = true ∧ height t ≤ height (ins t c).1 ∧ height (ins t c).1 ≤ height t + 1 := by
  induction t with
  | nil => simp [ins, balanced, height]
  | node l k r ihl ihr =>
    obtain ⟨hlr, hrl, hl, hr⟩ := balanced_node.mp h
    obtain ⟨bl, hl₁, hl₂⟩ := ihl hl
    obtain ⟨br, hr₁, hr₂⟩ := ihr hr
    obtain e | ⟨-, -, e⟩ | ⟨-, -, e⟩ := ins_node_cases l k r c
    · simp [e, h]
    · obtain ⟨hb, hheight⟩ := rebalance_mended k bl hr (by omega) (by omega)
      simp only [e, height, hb, true_and]
      omega
    · obtain ⟨hb, hheight⟩ := rebalance_mended k hl br (by omega) (by omega)
      simp only [e, height, hb, true_and]
      omega

end Sys2Proof.Machine
end

section
/-! Proofs of the statements of 10_state.md, part two: what a command can do to the state, said once, and what every
step keeps of it (R24, R27, R30, R36). -/

namespace Sys2Proof.Machine

/-! ## The rejection loop -/

/-- What one candidate can do: some coordinate, of the domain where no side is 0, is inserted and counted if the tree
grows by it, and spends draws only if not (42_sampler.md R160). -/
theorem candidate_cases {G : Generator} (width height : Component) (g : Growth G) :
    ∃ (c : Coord) (p : Prng G), (width ≠ 0 → height ≠ 0 → inDomain c width height = true) ∧
      (g.candidate width height = { g with prng := p } ∨
        (ins g.tree c).2 = true ∧ g.candidate width height = ⟨p, (ins g.tree c).1, g.count + 1⟩) := by
  refine ⟨⟨reduceDraw g.prng.draw.1 width, reduceDraw g.prng.draw.2.draw.1 height⟩, g.prng.draw.2.draw.2, ?_, ?_⟩
  · have hlt (v : Word) (side : Component) (h : side ≠ 0) : (reduceDraw v side).toNat < side.toNat := by
      have hpos : 0 < side.toNat := Nat.pos_of_ne_zero fun e => h (BitVec.eq_of_toNat_eq e)
      rw [reduceDraw, BitVec.toNat_ofNat]
      exact (Nat.mod_le _ _).trans_lt (Nat.mod_lt _ hpos)
    intro hw hh
    simp only [inDomain, hlt _ _ hw, hlt _ _ hh, decide_true, Bool.and_self]
  · simp only [Growth.candidate]
    split
    next e => exact .inr ⟨by rw [e], by rw [e]⟩
    next => exact .inl rfl

/-- What holds before the loop and is kept by a candidate drawn below the target holds after the loop. -/
theorem growLoop_induction {G : Generator} {width height : Component} {target fuel : Nat} {g g' : Growth G}
    {motive : Growth G → Prop} (h : growLoop width height target fuel g = some g') (start : motive g)
    (candidate : ∀ g, g.count < target → motive g → motive (g.candidate width height)) : motive g' := by
  induction fuel generalizing g with
  | zero => simp [growLoop] at h
  | succ fuel ih =>
    unfold growLoop at h
    split at h
    next hlt => exact ih h (candidate g hlt start)
    next =>
      cases h
      exact start

/-- The loop loses no member (42_sampler.md R161). -/
theorem mem_preorder_growLoop {G : Generator} {width height : Component} {target fuel : Nat} {g g' : Growth G}
    {c : Coord} (h : growLoop width height target fuel g = some g') (hc : c ∈ preorder g.tree) :
    c ∈ preorder g'.tree := by
  refine growLoop_induction (motive := fun g => c ∈ preorder g.tree) h hc fun g _ hc => ?_
  obtain ⟨d, p, -, e | ⟨hgrew, e⟩⟩ := candidate_cases width height g
  · rwa [e]
  · rw [e]
    exact (mem_preorder_ins_of_grew hgrew).mpr (.inr hc)

/-- What 10_state.md R30 says of the tree and the count of a sampler over a domain: items 1 to 5. -/
structure InForm (width height : Component) (tree : CoordTree) (count : Nat) : Prop where
  search : searchTree tree = true
  balance : balanced tree = true
  counted : count = (preorder tree).length
  domain : ∀ c ∈ preorder tree, inDomain c width height = true
  area : count ≤ width.toNat * height.toNat
  capacity : count ≤ Config.ncap

/-- A candidate drawn below a target within the area and the capacity keeps the form. -/
theorem candidate_inForm {G : Generator} {width height : Component} {target : Nat} {g : Growth G}
    (hw : width ≠ 0) (hh : height ≠ 0) (harea : target ≤ width.toNat * height.toNat) (hcap : target ≤ Config.ncap)
    (hlt : g.count < target) (hg : InForm width height g.tree g.count) :
    InForm width height (g.candidate width height).tree (g.candidate width height).count := by
  obtain ⟨c, p, hc, e | ⟨hgrew, e⟩⟩ := candidate_cases width height g
  · rwa [e]
  · rw [e]
    refine ⟨searchTree_ins c hg.search, (balanced_ins c hg.balance).1, ?_, fun d hd => ?_,
      Nat.succ_le_of_lt (hlt.trans_le harea), Nat.succ_le_of_lt (hlt.trans_le hcap)⟩
    · rw [length_preorder_ins_of_grew hgrew, hg.counted]
    · obtain rfl | hd := (mem_preorder_ins_of_grew hgrew).mp hd
      · exact hc hw hh
      · exact hg.domain d hd

/-! ## What a command can do -/

/-- What a command can do to the state when it answers: one constructor for each shape of effect. -/
inductive Effect (s : State) : Instr → State → Prop
  /-- Any command: an error (60_exceptions.md R216). -/
  | error (i : Instr) (st : Status) (h : st ≠ .ok := by decide) : Effect s i (s.raise st)
  /-- A command that only reads. -/
  | answer (i : Instr) (flag : Bool) (data : Word) : Effect s i (s.respond flag data)
  /-- A command that writes a container, which stays within its capacity or grows no longer (10_state.md R27). -/
  | store (i : Instr) (c : Fin Config.nb) (bits : List Bool)
      (h : bits.length ≤ Config.bcap ∨ bits.length ≤ (s.container c).length) :
      Effect s i ((s.setContainer c bits).respond false 0)
  /-- A command that writes the pseudo-random source. -/
  | source (i : Instr) (p : Prng Config.mt19937) (data : Word) : Effect s i ({ s with prng := p }.respond false data)
  /-- SRST (60_exceptions.md R220). -/
  | restart : Effect s .srst (s.restart.respond false 0)
  /-- CLRESR (60_exceptions.md R219). -/
  | clearEsr : Effect s .clresr ({ s with esr := 0 }.respond false 0)
  /-- SINIT (42_sampler.md R151). -/
  | create (u : BitVec 4) (k : Fin Config.ns) (width height : Component) (hu : u.toNat = k.val)
      (hw : width ≠ 0) (hh : height ≠ 0) :
      Effect s (.sinit u width height)
        ((s.setSampler k ⟨true, width, height, .nil, 0, .invalid⟩).respond false 0)
  /-- SCOPY (42_sampler.md R165). -/
  | copy (d u : BitVec 4) (j k : Fin Config.ns) (hd : d.toNat = j.val) (hv : (s.sampler k).valid = true) :
      Effect s (.scopy d u)
        ((s.setSampler j { s.sampler k with valid := true, cursor := .invalid }).respond false 0)
  /-- SGEN and SEXT once the loop has ended (42_sampler.md R161, R162). -/
  | grow (i : Instr) (k : Fin Config.ns) (target : Nat) (g : Growth Config.mt19937) (hv : (s.sampler k).valid = true)
      (harea : target ≤ (s.sampler k).width.toNat * (s.sampler k).height.toNat) (hcap : target ≤ Config.ncap)
      (hg : growLoop (s.sampler k).width (s.sampler k).height target (growFuel Config.ksbc) (s.growth k) = some g) :
      Effect s i (s.grown k g)
  /-- SBEGIN and SNEXT: the cursor opens or moves within the traversal (42_sampler.md R167, R168). -/
  | move (i : Instr) (k : Fin Config.ns) (n : Nat) (flag : Bool) (data : Word) (hv : (s.sampler k).valid = true)
      (hn : n ≤ (preorder (s.sampler k).tree).length) :
      Effect s i ((s.setSampler k { s.sampler k with cursor := .position n }).respond flag data)

section Commands
variable {i : Instr} {s t : State}

/-- What the growth of SGEN and SEXT can do. -/
theorem growTo_effect {k : Fin Config.ns} {target : Nat} (hv : (s.sampler k).valid = true)
    (h : s.growTo k target = .next t) : Effect s i t := by
  obtain ⟨-, rfl⟩ | ⟨-, -, rfl⟩ | ⟨harea, hcap, g, hg, rfl⟩ := growTo_next s t k target h
  · exact .error i _
  · exact .error i _
  · exact .grow i k target g hv harea hcap hg

/-- What an append can do. -/
theorem append_effect (c : Fin Config.nb) (bits : List Bool) : Effect s i (s.append c bits) := by
  obtain ⟨hfit, e⟩ | ⟨-, e⟩ := append_cases s c bits
  · exact e ▸ .store i c _ (.inl (by simpa only [List.length_append] using hfit))
  · exact e ▸ .error i _

theorem execBclr_effect {b : BitVec 4} (h : execBclr b s = .next t) : Effect s i t := by
  unfold execBclr at h
  split at h <;> cases h
  · exact .error i _
  · exact .store i _ _ (.inl (Nat.zero_le _))

theorem execBpush_effect {b : BitVec 4} {bit : Bool} (h : execBpush b bit s = .next t) : Effect s i t := by
  unfold execBpush at h
  split at h <;> cases h
  · exact .error i _
  · exact append_effect _ _

theorem execBpushv_effect {b : BitVec 4} {n : BitVec 8} {v : Word} (h : execBpushv b n v s = .next t) :
    Effect s i t := by
  unfold execBpushv at h
  split at h <;> cases h
  · exact append_effect _ _
  · exact .error i _

theorem execBput_effect {b : BitVec 4} {byte : Byte} (h : execBput b byte s = .next t) : Effect s i t := by
  unfold execBput at h
  split at h <;> cases h
  · exact .error i _
  · exact append_effect _ _

theorem execBrd_effect {b : BitVec 4} {index : Word} (h : execBrd b index s = .next t) : Effect s i t := by
  unfold execBrd at h
  split at h
  · cases h
    exact .error i _
  · split at h <;> cases h
    · exact .error i _
    · exact .answer i _ _

theorem execBwr_effect {b : BitVec 4} {bit : Bool} {index : Word} (h : execBwr b bit index s = .next t) :
    Effect s i t := by
  unfold execBwr at h
  split at h
  · cases h
    exact .error i _
  · split at h <;> cases h
    · exact .error i _
    · exact .store i _ _ (.inr (List.length_set ..).le)

theorem execBsize_effect {b : BitVec 4} (h : execBsize b s = .next t) : Effect s i t := by
  unfold execBsize at h
  split at h <;> cases h
  · exact .error i _
  · exact .answer i _ _

theorem execBempty_effect {b : BitVec 4} (h : execBempty b s = .next t) : Effect s i t := by
  unfold execBempty at h
  split at h <;> cases h
  · exact .error i _
  · exact .answer i _ _

theorem execBtoint_effect {b : BitVec 4} (h : execBtoint b s = .next t) : Effect s i t := by
  unfold execBtoint at h
  split at h
  · cases h
    exact .error i _
  · split at h <;> cases h
    · exact .error i _
    · exact .answer i _ _

theorem execBfromint_effect {b : BitVec 4} {n : BitVec 8} {v : Word} (h : execBfromint b n v s = .next t) :
    Effect s i t := by
  unfold execBfromint at h
  split at h <;> cases h
  next hn =>
    have hcap : n.toNat ≤ Config.bcap := (of_decide_eq_true hn).trans (by decide)
    exact .store i _ _ (.inl (by rwa [bitsOf_length]))
  · exact .error i _

theorem execBrdbyte_effect {b : BitVec 4} {k : Word} (h : execBrdbyte b k s = .next t) : Effect s i t := by
  unfold execBrdbyte at h
  split at h
  · cases h
    exact .error i _
  · split at h <;> cases h
    · exact .error i _
    · exact .answer i _ _

theorem execBeq_effect {b c : BitVec 4} (h : execBeq b c s = .next t) : Effect s i t := by
  unfold execBeq at h
  split at h <;> cases h
  · exact .answer i _ _
  · exact .error i _

theorem execSinit_effect {u : BitVec 4} {width height : Component} (h : execSinit u width height s = .next t) :
    Effect s (.sinit u width height) t := by
  unfold execSinit at h
  split at h <;> cases h
  next k hu hd =>
    simp only [domainOk, Bool.and_eq_true, bne_iff_ne] at hd
    exact .create u k width height ((sampler?_eq_some _ u k).mp hu) hd.1 hd.2
  · exact .error _ _

/-- A check of the state that a command makes before it acts: it answers the error, or the check holds. -/
theorem check_next {b : Bool} {st : Status} {o : Host.Outcome State Fault Refusal}
    (h : (if !b then .next (s.raise st) else o) = Host.Outcome.next t) : t = s.raise st ∨ b = true ∧ o = .next t := by
  cases b
  · cases h
    exact .inl rfl
  · exact .inr ⟨rfl, h⟩

/-- The checks that SGEN and SEXT share, and the growth after them (42_sampler.md R150). -/
theorem growChecked_effect {k : Fin Config.ns} {target : Nat}
    (h : (if !s.prng.seeded then .next (s.raise .notSeeded)
      else if !(s.sampler k).valid then .next (s.raise .notInit) else s.growTo k target) = Host.Outcome.next t) :
    Effect s i t := by
  obtain rfl | ⟨-, h⟩ := check_next h
  · exact .error i _
  · obtain rfl | ⟨hv, h⟩ := check_next h
    · exact .error i _
    · exact growTo_effect hv h

theorem execSgen_effect {u : BitVec 4} {n : Word} (h : execSgen u n s = .next t) : Effect s i t := by
  unfold execSgen at h
  split at h
  · cases h
    exact .error i _
  · exact growChecked_effect h

theorem execSext_effect {u : BitVec 4} {more : Word} (h : execSext u more s = .next t) : Effect s i t := by
  unfold execSext at h
  split at h
  · cases h
    exact .error i _
  · exact growChecked_effect h

theorem execSfind_effect {u : BitVec 4} {x y : Component} (h : execSfind u x y s = .next t) : Effect s i t := by
  unfold execSfind at h
  split at h
  · cases h
    exact .error i _
  · obtain rfl | ⟨-, h⟩ := check_next h
    · exact .error i _
    · cases h
      exact .answer i _ _

theorem execScopy_effect {d u : BitVec 4} (h : execScopy d u s = .next t) : Effect s (.scopy d u) t := by
  unfold execScopy at h
  split at h
  next j k hd _ =>
    obtain rfl | ⟨hv, h⟩ := check_next h
    · exact .error _ _
    · cases h
      exact .copy d u j k ((sampler?_eq_some _ d j).mp hd) hv
  · cases h
    exact .error _ _

theorem execSsize_effect {u : BitVec 4} (h : execSsize u s = .next t) : Effect s i t := by
  unfold execSsize at h
  split at h
  · cases h
    exact .error i _
  · obtain rfl | ⟨-, h⟩ := check_next h
    · exact .error i _
    · cases h
      exact .answer i _ _

theorem execSbegin_effect {u : BitVec 4} (h : execSbegin u s = .next t) : Effect s i t := by
  unfold execSbegin at h
  split at h
  · cases h
    exact .error i _
  · obtain rfl | ⟨hv, h⟩ := check_next h
    · exact .error i _
    · cases h
      exact .move i _ 0 _ _ hv (Nat.zero_le _)

theorem execSnext_effect {u : BitVec 4} (h : execSnext u s = .next t) : Effect s i t := by
  unfold execSnext at h
  split at h
  · cases h
    exact .error i _
  · obtain rfl | ⟨hv, h⟩ := check_next h
    · exact .error i _
    · split at h
      · cases h
        exact .error i _
      · split at h
        · cases h
          exact .answer i _ _
        · split at h <;> cases h
          next hget =>
            obtain ⟨hlt, -⟩ := List.getElem?_eq_some_iff.mp hget
            exact .move i _ _ _ _ hv (Nat.succ_le_of_lt hlt)

theorem execPnext_effect (h : execPnext s = .next t) : Effect s i t := by
  obtain rfl | ⟨-, h⟩ := check_next h
  · exact .error i _
  · cases h
    exact .source i _ _

end Commands

/-- A command that answers has one of the effects above. -/
theorem exec_effect {i : Instr} {s t : State} (h : exec i s = .next t) : Effect s i t := by
  cases i with
  | srst => cases h; exact .restart
  | rdesr => cases h; exact .answer _ _ _
  | clresr => cases h; exact .clearEsr
  | pseed => cases h; exact .source _ _ _
  | pnext => exact execPnext_effect h
  | pdraws => cases h; exact .answer _ _ _
  | bclr => exact execBclr_effect h
  | bpush => exact execBpush_effect h
  | bpushv => exact execBpushv_effect h
  | bput => exact execBput_effect h
  | brd => exact execBrd_effect h
  | bwr => exact execBwr_effect h
  | bsize => exact execBsize_effect h
  | bempty => exact execBempty_effect h
  | btoint => exact execBtoint_effect h
  | bfromint => exact execBfromint_effect h
  | brdbyte => exact execBrdbyte_effect h
  | beq => exact execBeq_effect h
  | sinit => exact execSinit_effect h
  | sgen => exact execSgen_effect h
  | sext => exact execSext_effect h
  | sfind => exact execSfind_effect h
  | scopy => exact execScopy_effect h
  | ssize => exact execSsize_effect h
  | sbegin => exact execSbegin_effect h
  | snext => exact execSnext_effect h

/-- What a step can do when it answers: it waits, takes `rst`, refuses a word that spells no command, or runs one. -/
theorem step_next {s t : State} (h : step s = .next t) :
    t = s ∨ ∃ rest : List HostEvent, t = ({ s with host := rest } : State).restart ∨
      t = ({ s with host := rest } : State).raise .illegalCommand ∨ ∃ i, exec i { s with host := rest } = .next t := by
  unfold step takeEvent at h
  split at h
  · cases h
    exact .inl rfl
  next rest _ =>
    cases h
    exact .inr ⟨rest, .inl rfl⟩
  next rest _ =>
    split at h
    next i _ => exact .inr ⟨rest, .inr (.inr ⟨i, h⟩)⟩
    next =>
      cases h
      exact .inr ⟨rest, .inr (.inl rfl)⟩

/-! ## The samplers -/

/-- A sampler after a write is the one written or the old one: what holds of both holds of it. -/
theorem setSampler_sampler_cases {s : State} {k v : Fin Config.ns} {g : Sampler} {motive : Sampler → Prop}
    (same : v = k → motive g) (other : motive (s.sampler v)) : motive ((s.setSampler k g).sampler v) := by
  by_cases e : v = k
  · subst e
    rw [setSampler_sampler_same]
    exact same rfl
  · rwa [setSampler_sampler_other _ _ _ _ e]

/-- A sampler still has what an earlier one had: it exists over the same domain, and the coordinate is a member. -/
def Sampler.Keeps (old : Sampler) (c : Coord) (g : Sampler) : Prop :=
  g.valid = true ∧ g.width = old.width ∧ g.height = old.height ∧ c ∈ preorder g.tree

/-- Settles O55: among the effects only SRST, SINIT and SCOPY write another tree than one the loop has grown. -/
theorem membersOnlyGrow : Obligations.MembersOnlyGrow := by
  intro i s t k c h hvalid hsrst hsinit hscopy hc
  have stays : (s.sampler k).Keeps c (s.sampler k) := ⟨hvalid, rfl, rfl, hc⟩
  change (s.sampler k).Keeps c (t.sampler k)
  cases exec_effect h with
  | error | answer | store | source | clearEsr => exact stays
  | restart => exact absurd rfl hsrst
  | create u j _ _ hu =>
    exact setSampler_sampler_cases (fun e => absurd (e ▸ hu) (hsinit _ _ _ rfl)) stays
  | copy d u j _ hd => exact setSampler_sampler_cases (fun e => absurd (e ▸ hd) (hscopy _ _ rfl)) stays
  | grow _ j _ g hv _ _ hg =>
    refine setSampler_sampler_cases (fun e => ?_) stays
    subst e
    exact ⟨hv, rfl, rfl, mem_preorder_growLoop hg hc⟩
  | move _ j n _ _ hv =>
    refine setSampler_sampler_cases (fun e => ?_) stays
    subst e
    exact stays

/-! ## The invariant -/

/-- A sampler that exists is in form when its domain, its tree and count, and its cursor are. -/
theorem Sampler.wf_iff (g : Sampler) :
    g.wf ↔ (g.valid = true → g.width ≠ 0 ∧ g.height ≠ 0 ∧ InForm g.width g.height g.tree g.count ∧
      g.cursor.within g.count = true) := by
  refine imp_congr_right fun _ => ?_
  simp only [List.all_eq_true]
  constructor
  · rintro ⟨hw, hh, hs, hb, hn, hd, ha, hc, hcur⟩
    exact ⟨hw, hh, ⟨hs, hb, hn, hd, ha, hc⟩, hcur⟩
  · rintro ⟨hw, hh, ⟨hs, hb, hn, hd, ha, hc⟩, hcur⟩
    exact ⟨hw, hh, hs, hb, hn, hd, ha, hc, hcur⟩

/-- A sampler that does not exist is in form. -/
theorem Sampler.wf_of_invalid {g : Sampler} (h : g.valid = false) : g.wf :=
  fun hv => absurd (h.symm.trans hv) (by decide)

/-- The cursor of a sampler in form may be closed, or set to any position up to the end of the traversal. -/
theorem Sampler.wf_withCursor {g : Sampler} (h : g.wf) (cursor : Cursor)
    (hc : cursor.within (preorder g.tree).length = true) : Sampler.wf { g with cursor := cursor } :=
  (Sampler.wf_iff _).mpr fun hv =>
    have ⟨hw, hh, hform, _⟩ := (Sampler.wf_iff g).mp h hv
    ⟨hw, hh, hform, hform.counted ▸ hc⟩

/-- An empty sampler over a domain without a zero side is in form. -/
theorem Sampler.wf_empty {width height : Component} (hw : width ≠ 0) (hh : height ≠ 0) :
    Sampler.wf ⟨true, width, height, .nil, 0, .invalid⟩ :=
  fun _ => ⟨hw, hh, rfl, rfl, rfl, rfl, Nat.zero_le _, Nat.zero_le _, rfl⟩

/-- Every response given is one the layout allows (30_encoding.md R73, R74). -/
theorem legalResponse_ok (flag : Bool) (data : Word) : legalResponse (responseWord .ok flag data) = true := by
  simp [legalResponse, responseWord_status, responseWord_zero, Status.code]

theorem legalResponse_error (st : Status) : legalResponse (responseWord st false 0) = true := by
  cases st <;> decide

/-- No status sets a reserved bit of `ESR` (10_state.md R24). -/
theorem esrWith_reserved {esr : BitVec 16} (st : Status) (h : esr &&& 0xFC01 = 0) : esrWith esr st &&& 0xFC01 = 0 := by
  have bit : st ≠ .ok → (1 : BitVec 16) <<< st.code &&& 0xFC01 = 0 := by
    cases st <;> decide
  cases st
  case ok => exact h
  all_goals exact (BitVec.and_or_distrib_right ..).trans (by rw [h, bit (by decide)]; rfl)

section Invariant
variable {s : State}

theorem respond_wf (h : s.wf) (flag : Bool) (data : Word) : (s.respond flag data).wf := by
  obtain ⟨hmem, hsam, hesr, hresp⟩ := h
  refine ⟨hmem, hsam, hesr, ?_⟩
  rw [respond_responses, List.all_append, hresp, List.all_cons, legalResponse_ok]
  rfl

theorem raise_wf (h : s.wf) (st : Status) : (s.raise st).wf := by
  obtain ⟨hmem, hsam, hesr, hresp⟩ := h
  refine ⟨hmem, hsam, esrWith_reserved st hesr, ?_⟩
  rw [raise_responses, List.all_append, hresp, List.all_cons, legalResponse_error]
  rfl

theorem setContainer_wf (h : s.wf) (c : Fin Config.nb) {bits : List Bool} (hb : bits.length ≤ Config.bcap) :
    (s.setContainer c bits).wf := by
  obtain ⟨hmem, hsam, hesr, hresp⟩ := h
  exact ⟨setContainer_memory_wf s c bits hmem hb, hsam, hesr, hresp⟩

theorem setSampler_wf (h : s.wf) (k : Fin Config.ns) {g : Sampler} (hg : g.wf) : (s.setSampler k g).wf := by
  obtain ⟨hmem, hsam, hesr, hresp⟩ := h
  exact ⟨hmem, fun v => setSampler_sampler_cases (fun _ => hg) (hsam v), hesr, hresp⟩

theorem restart_wf (h : s.wf) : s.restart.wf := by
  obtain ⟨-, -, -, hresp⟩ := h
  refine ⟨restart_memory_wf s, fun u => Sampler.wf_of_invalid ?_, BitVec.zero_and, hresp⟩
  rw [restart_sampler, restarted_valid]

/-- Growth keeps the invariant: the loop starts from a growth in form and stops at a target within the limits. -/
theorem grown_wf (h : s.wf) {k : Fin Config.ns} {target : Nat} {g : Growth Config.mt19937}
    (hv : (s.sampler k).valid = true) (harea : target ≤ (s.sampler k).width.toNat * (s.sampler k).height.toNat)
    (hcap : target ≤ Config.ncap)
    (hg : growLoop (s.sampler k).width (s.sampler k).height target (growFuel Config.ksbc) (s.growth k) = some g) :
    (s.grown k g).wf := by
  have ⟨_, hsam, _, _⟩ := h
  obtain ⟨hw, hh, hform, -⟩ := (Sampler.wf_iff _).mp (hsam k) hv
  have hg' : InForm (s.sampler k).width (s.sampler k).height g.tree g.count :=
    growLoop_induction (motive := fun g => InForm _ _ g.tree g.count) hg hform
      fun _ => candidate_inForm hw hh harea hcap
  refine respond_wf (setSampler_wf (s := { s with prng := g.prng }) h k ?_) false 0
  exact (Sampler.wf_iff _).mpr fun _ => ⟨hw, hh, hg', rfl⟩

/-- Every command that answers keeps the invariant. -/
theorem exec_wf {i : Instr} {t : State} (h : s.wf) (ht : exec i s = .next t) : t.wf := by
  have ⟨hmem, hsam, _, hresp⟩ := h
  cases exec_effect ht with
  | error _ st => exact raise_wf h st
  | answer => exact respond_wf h _ _
  | store _ c bits hb =>
    exact respond_wf (setContainer_wf h c (hb.elim id fun hb => hb.trans (hmem c))) _ _
  | source _ p => exact respond_wf (s := { s with prng := p }) h _ _
  | restart => exact respond_wf (restart_wf h) _ _
  | clearEsr => exact respond_wf (s := { s with esr := 0 }) ⟨hmem, hsam, BitVec.zero_and, hresp⟩ _ _
  | create _ k _ _ _ hw hh => exact respond_wf (setSampler_wf h k (Sampler.wf_empty hw hh)) _ _
  | copy _ _ j k _ hv =>
    refine respond_wf (setSampler_wf h j ?_) _ _
    exact hv ▸ Sampler.wf_withCursor (hsam k) .invalid rfl
  | grow _ _ _ _ hv harea hcap hg => exact grown_wf h hv harea hcap hg
  | move _ k n _ _ _ hn =>
    exact respond_wf (setSampler_wf h k (Sampler.wf_withCursor (hsam k) (.position n) (decide_eq_true hn))) _ _

end Invariant

/-- Settles O58, from what a step can do: the event taken is no part of the invariant, and every command, restart and
error keeps it. -/
theorem stepKeepsWellFormed : Obligations.StepKeepsWellFormed := by
  intro s t h hstep
  obtain rfl | ⟨rest, rfl | rfl | ⟨i, hi⟩⟩ := step_next hstep
  · exact h
  · exact restart_wf (s := { s with host := rest }) h
  · exact raise_wf (s := { s with host := rest }) h _
  · exact exec_wf (s := { s with host := rest }) h hi

/-! ## Reset -/

theorem reset_sampler (u : Fin Config.ns) : State.reset.sampler u = Sampler.reset := by
  simp [State.reset, State.resetAt, State.sampler]

theorem reset_container (b : Fin Config.nb) : State.reset.container b = [] := by
  simp [State.reset, State.resetAt, State.container]

/-- Settles O12, element by element. -/
theorem resetHasItsValues : Obligations.ResetHasItsValues :=
  ⟨⟨reset_container, rfl, rfl, fun u => by rw [reset_sampler]; exact ⟨rfl, rfl⟩, rfl⟩, rfl⟩

/-- Settles O57: the containers are empty and no sampler exists. -/
theorem resetIsWellFormed : Obligations.ResetIsWellFormed :=
  ⟨reset_memory_wf, fun u => Sampler.wf_of_invalid (by rw [reset_sampler]; rfl), rfl, rfl⟩

end Sys2Proof.Machine
end

section
/-! Proofs of the statements of 10_state.md, part three: what R36 leaves unspecified is unobservable. Two runs go side by
side: every operation keeps the relation, so every command answers alike on related states. -/

namespace Sys2Proof.Machine

section Runs
variable {s t : State}

/-! ## Operations on states no command can tell apart -/

namespace SameVisible

theorem container (h : SameVisible s t) (c : Fin Config.nb) : s.container c = t.container c := by
  obtain ⟨hc, -⟩ := h
  simp only [State.container, hc]

theorem seeded (h : SameVisible s t) : s.prng.seeded = t.prng.seeded := by
  obtain ⟨-, hs, -⟩ := h
  exact hs

theorem source (h : SameVisible s t) (hs : s.prng.seeded = true) : s.prng = t.prng := by
  obtain ⟨-, -, -, hp, -⟩ := h
  exact hp hs

theorem valid (h : SameVisible s t) (u : Fin Config.ns) : (s.sampler u).valid = (t.sampler u).valid := by
  obtain ⟨-, -, -, -, hsam, -⟩ := h
  exact (hsam u).1

theorem sampler (h : SameVisible s t) {u : Fin Config.ns} (hv : (s.sampler u).valid = true) :
    s.sampler u = t.sampler u := by
  obtain ⟨-, -, -, -, hsam, -⟩ := h
  exact (hsam u).2 hv

theorem host (h : SameVisible s t) : s.host = t.host := by
  obtain ⟨-, -, -, -, -, -, hh, -⟩ := h
  exact hh

theorem respond (h : SameVisible s t) (flag : Bool) (data : Word) :
    SameVisible (s.respond flag data) (t.respond flag data) := by
  obtain ⟨hc, hs, hd, hp, hsam, he, hh, hr⟩ := h
  exact ⟨hc, hs, hd, hp, hsam, he, hh, congrArg (· ++ _) hr⟩

theorem raise (h : SameVisible s t) (st : Status) : SameVisible (s.raise st) (t.raise st) := by
  obtain ⟨hc, hs, hd, hp, hsam, he, hh, hr⟩ := h
  exact ⟨hc, hs, hd, hp, hsam, congrArg (esrWith · st) he, hh, congrArg (· ++ _) hr⟩

theorem setContainer (h : SameVisible s t) (c : Fin Config.nb) (bits : List Bool) :
    SameVisible (s.setContainer c bits) (t.setContainer c bits) := by
  obtain ⟨hc, rest⟩ := h
  exact ⟨by simp only [State.setContainer, hc], rest⟩

theorem setSampler (h : SameVisible s t) (k : Fin Config.ns) (g : Sampler) :
    SameVisible (s.setSampler k g) (t.setSampler k g) := by
  obtain ⟨hc, hs, hd, hp, hsam, rest⟩ := h
  refine ⟨hc, hs, hd, hp, fun v => ?_, rest⟩
  by_cases e : v = k
  · subst e
    simp only [setSampler_sampler_same, implies_true, and_self]
  · simpa only [setSampler_sampler_other _ _ _ _ e] using hsam v

theorem setSource (h : SameVisible s t) (p : Prng Config.mt19937) :
    SameVisible { s with prng := p } { t with prng := p } := by
  obtain ⟨hc, -, -, -, rest⟩ := h
  exact ⟨hc, rfl, rfl, fun _ => rfl, rest⟩

theorem setEsr (h : SameVisible s t) (e : BitVec 16) : SameVisible { s with esr := e } { t with esr := e } := by
  obtain ⟨hc, hs, hd, hp, hsam, -, rest⟩ := h
  exact ⟨hc, hs, hd, hp, hsam, rfl, rest⟩

theorem setHost (h : SameVisible s t) (es : List HostEvent) :
    SameVisible { s with host := es } { t with host := es } := by
  obtain ⟨hc, hs, hd, hp, hsam, he, -, hr⟩ := h
  exact ⟨hc, hs, hd, hp, hsam, he, rfl, hr⟩

/-- After a restart the free values are again what no command can tell apart. -/
theorem restart (h : SameVisible s t) : SameVisible s.restart t.restart := by
  obtain ⟨-, -, -, -, -, -, hh, hr⟩ := h
  refine ⟨rfl, rfl, rfl, fun hs => ?_, fun u => ?_, rfl, hh, hr⟩
  · simp only [restart_seeded, Bool.false_eq_true] at hs
  · simp only [restart_sampler, restarted_valid, Bool.false_eq_true, false_implies, and_self]

theorem append (h : SameVisible s t) (c : Fin Config.nb) (bits : List Bool) :
    SameVisible (s.append c bits) (t.append c bits) := by
  simp only [State.append, h.container]
  split
  · exact h.raise _
  · exact (h.setContainer _ _).respond _ _

end SameVisible

/-! ## Answers no command can tell apart -/

/-- Two outcomes alike: next states that no command can tell apart, or the same stop. -/
inductive SameAnswer : (a b : Host.Outcome State Fault Refusal) → Prop
  | next {s t : State} (h : SameVisible s t) : SameAnswer (.next s) (.next t)
  | fault (f : Fault) : SameAnswer (.fault f) (.fault f)

namespace SameVisible

theorem answerError (h : SameVisible s t) (st : Status) : SameAnswer (.next (s.raise st)) (.next (t.raise st)) :=
  .next (h.raise st)

theorem answer (h : SameVisible s t) (flag : Bool) (data : Word) :
    SameAnswer (.next (s.respond flag data)) (.next (t.respond flag data)) :=
  .next (h.respond flag data)

/-- A check that both states pass or both fail. -/
theorem check (h : SameVisible s t) {b b' : Bool} (hb : b = b') (st : Status) {o o' : Host.Outcome State Fault Refusal}
    (ho : b = true → SameAnswer o o') :
    SameAnswer (if !b then .next (s.raise st) else o) (if !b' then .next (t.raise st) else o') := by
  subst hb
  cases b
  · exact h.answerError st
  · exact ho rfl

/-- The loop of SGEN and SEXT starts from the same source, tree and count once its checks are passed. -/
theorem growTo (h : SameVisible s t) {k : Fin Config.ns} (hs : s.prng.seeded = true)
    (hv : (s.sampler k).valid = true) (target : Nat) : SameAnswer (s.growTo k target) (t.growTo k target) := by
  have hg : s.growth k = t.growth k := by simp only [State.growth, h.source hs, h.sampler hv]
  simp only [State.growTo, State.grown, h.sampler hv, hg]
  split
  · exact h.answerError _
  · split
    · exact h.answerError _
    · split
      · exact ((h.setSource _).setSampler _ _).answer _ _
      · exact .fault _

end SameVisible

/-! ## Commands -/

section Commands
variable (h : SameVisible s t)
include h

theorem sameAnswer_execBclr (b : BitVec 4) : SameAnswer (execBclr b s) (execBclr b t) := by
  unfold execBclr
  split
  · exact h.answerError _
  · exact (h.setContainer _ _).answer _ _

theorem sameAnswer_execBpush (b : BitVec 4) (bit : Bool) : SameAnswer (execBpush b bit s) (execBpush b bit t) := by
  unfold execBpush
  split
  · exact h.answerError _
  · exact .next (h.append _ _)

theorem sameAnswer_execBpushv (b : BitVec 4) (n : BitVec 8) (v : Word) :
    SameAnswer (execBpushv b n v s) (execBpushv b n v t) := by
  unfold execBpushv
  split
  · exact .next (h.append _ _)
  · exact h.answerError _

theorem sameAnswer_execBput (b : BitVec 4) (byte : Byte) : SameAnswer (execBput b byte s) (execBput b byte t) := by
  unfold execBput
  split
  · exact h.answerError _
  · exact .next (h.append _ _)

theorem sameAnswer_execBrd (b : BitVec 4) (index : Word) : SameAnswer (execBrd b index s) (execBrd b index t) := by
  simp only [execBrd, h.container]
  split
  · exact h.answerError _
  · split
    · exact h.answerError _
    · exact h.answer _ _

theorem sameAnswer_execBwr (b : BitVec 4) (bit : Bool) (index : Word) :
    SameAnswer (execBwr b bit index s) (execBwr b bit index t) := by
  simp only [execBwr, h.container]
  split
  · exact h.answerError _
  · split
    · exact h.answerError _
    · exact (h.setContainer _ _).answer _ _

theorem sameAnswer_execBsize (b : BitVec 4) : SameAnswer (execBsize b s) (execBsize b t) := by
  simp only [execBsize, h.container]
  split
  · exact h.answerError _
  · exact h.answer _ _

theorem sameAnswer_execBempty (b : BitVec 4) : SameAnswer (execBempty b s) (execBempty b t) := by
  simp only [execBempty, h.container]
  split
  · exact h.answerError _
  · exact h.answer _ _

theorem sameAnswer_execBtoint (b : BitVec 4) : SameAnswer (execBtoint b s) (execBtoint b t) := by
  simp only [execBtoint, h.container]
  split
  · exact h.answerError _
  · split
    · exact h.answerError _
    · exact h.answer _ _

theorem sameAnswer_execBfromint (b : BitVec 4) (n : BitVec 8) (v : Word) :
    SameAnswer (execBfromint b n v s) (execBfromint b n v t) := by
  unfold execBfromint
  split
  · exact (h.setContainer _ _).answer _ _
  · exact h.answerError _

theorem sameAnswer_execBrdbyte (b : BitVec 4) (k : Word) : SameAnswer (execBrdbyte b k s) (execBrdbyte b k t) := by
  simp only [execBrdbyte, h.container]
  split
  · exact h.answerError _
  · split
    · exact h.answerError _
    · exact h.answer _ _

theorem sameAnswer_execBeq (b c : BitVec 4) : SameAnswer (execBeq b c s) (execBeq b c t) := by
  simp only [execBeq, h.container]
  split
  · exact h.answer _ _
  · exact h.answerError _

theorem sameAnswer_execSinit (u : BitVec 4) (width height : Component) :
    SameAnswer (execSinit u width height s) (execSinit u width height t) := by
  unfold execSinit
  split
  · exact (h.setSampler _ _).answer _ _
  · exact h.answerError _

theorem sameAnswer_execSgen (u : BitVec 4) (n : Word) : SameAnswer (execSgen u n s) (execSgen u n t) := by
  unfold execSgen
  split
  · exact h.answerError _
  next k _ => exact h.check h.seeded _ fun hs => h.check (h.valid k) _ fun hv => h.growTo hs hv _

theorem sameAnswer_execSext (u : BitVec 4) (more : Word) : SameAnswer (execSext u more s) (execSext u more t) := by
  unfold execSext
  split
  · exact h.answerError _
  next k _ =>
    refine h.check h.seeded _ fun hs => h.check (h.valid k) _ fun hv => ?_
    rw [h.sampler hv]
    exact h.growTo hs hv _

theorem sameAnswer_execSfind (u : BitVec 4) (x y : Component) :
    SameAnswer (execSfind u x y s) (execSfind u x y t) := by
  unfold execSfind
  split
  · exact h.answerError _
  next k _ =>
    refine h.check (h.valid k) _ fun hv => ?_
    rw [h.sampler hv]
    exact h.answer _ _

theorem sameAnswer_execScopy (d u : BitVec 4) : SameAnswer (execScopy d u s) (execScopy d u t) := by
  unfold execScopy
  split
  next _ k _ _ =>
    refine h.check (h.valid k) _ fun hv => ?_
    rw [h.sampler hv]
    exact (h.setSampler _ _).answer _ _
  · exact h.answerError _

theorem sameAnswer_execSsize (u : BitVec 4) : SameAnswer (execSsize u s) (execSsize u t) := by
  unfold execSsize
  split
  · exact h.answerError _
  next k _ =>
    refine h.check (h.valid k) _ fun hv => ?_
    rw [h.sampler hv]
    exact h.answer _ _

theorem sameAnswer_execSbegin (u : BitVec 4) : SameAnswer (execSbegin u s) (execSbegin u t) := by
  unfold execSbegin
  split
  · exact h.answerError _
  next k _ =>
    refine h.check (h.valid k) _ fun hv => ?_
    rw [h.sampler hv]
    exact (h.setSampler _ _).answer _ _

theorem sameAnswer_execSnext (u : BitVec 4) : SameAnswer (execSnext u s) (execSnext u t) := by
  unfold execSnext
  split
  · exact h.answerError _
  next k _ =>
    refine h.check (h.valid k) _ fun hv => ?_
    rw [h.sampler hv]
    split
    · exact h.answerError _
    · split
      · exact h.answer _ _
      · split
        · exact (h.setSampler _ _).answer _ _
        · exact .fault _

theorem sameAnswer_execPnext : SameAnswer (execPnext s) (execPnext t) := by
  refine h.check h.seeded _ fun hs => ?_
  rw [h.source hs]
  exact (h.setSource _).answer _ _

theorem sameAnswer_execPdraws : SameAnswer (execPdraws s) (execPdraws t) := by
  have ⟨_, _, hd, _⟩ := h
  unfold execPdraws
  rw [hd]
  exact h.answer _ _

theorem sameAnswer_execRdesr : SameAnswer (execRdesr s) (execRdesr t) := by
  have ⟨_, _, _, _, _, he, _⟩ := h
  unfold execRdesr
  rw [he]
  exact h.answer _ _

/-- Every command answers alike. -/
theorem sameAnswer_exec (i : Instr) : SameAnswer (exec i s) (exec i t) := by
  cases i with
  | srst => exact h.restart.answer _ _
  | rdesr => exact sameAnswer_execRdesr h
  | clresr => exact (h.setEsr _).answer _ _
  | pseed => exact (h.setSource _).answer _ _
  | pnext => exact sameAnswer_execPnext h
  | pdraws => exact sameAnswer_execPdraws h
  | bclr => exact sameAnswer_execBclr h _
  | bpush => exact sameAnswer_execBpush h _ _
  | bpushv => exact sameAnswer_execBpushv h _ _ _
  | bput => exact sameAnswer_execBput h _ _
  | brd => exact sameAnswer_execBrd h _ _
  | bwr => exact sameAnswer_execBwr h _ _ _
  | bsize => exact sameAnswer_execBsize h _
  | bempty => exact sameAnswer_execBempty h _
  | btoint => exact sameAnswer_execBtoint h _
  | bfromint => exact sameAnswer_execBfromint h _ _ _
  | brdbyte => exact sameAnswer_execBrdbyte h _ _
  | beq => exact sameAnswer_execBeq h _ _
  | sinit => exact sameAnswer_execSinit h _ _ _
  | sgen => exact sameAnswer_execSgen h _ _
  | sext => exact sameAnswer_execSext h _ _
  | sfind => exact sameAnswer_execSfind h _ _ _
  | scopy => exact sameAnswer_execScopy h _ _
  | ssize => exact sameAnswer_execSsize h _
  | sbegin => exact sameAnswer_execSbegin h _
  | snext => exact sameAnswer_execSnext h _

/-- Every step answers alike: both machines take the same event. -/
theorem sameAnswer_step : SameAnswer (step s) (step t) := by
  unfold step takeEvent
  rw [← h.host]
  split
  · exact .next h
  · exact .next (h.setHost _).restart
  · split
    · exact sameAnswer_exec (h.setHost _) _
    · exact (h.setHost _).answerError _

end Commands
end Runs

/-- Settles O60, by the two runs side by side. -/
theorem unspecifiedStateIsUnobservable : Obligations.UnspecifiedStateIsUnobservable := by
  intro s t h
  have hstep := sameAnswer_step h
  refine ⟨fun s' e => ?_, fun f e => ?_⟩
  · rw [e] at hstep
    generalize step t = o at hstep ⊢
    cases hstep with
    | next h' => exact ⟨_, rfl, h'⟩
  · rw [e] at hstep
    generalize step t = o at hstep ⊢
    cases hstep with
    | fault => rfl

end Sys2Proof.Machine
end

section
/-! Proofs of the statements of 30_encoding.md. A word and its six fields determine each other (R71); the decoder is read
off the opcode map row by row (R76, R78), and a row of opcode_table.json tests the same fields in one mask (R82). -/

namespace Sys2Proof

open Machine
open BitVec (and_allOnes and_zero extractLsb' extractLsb'_append_extractLsb'_eq_extractLsb'
  extractLsb'_append_eq_of_le extractLsb'_append_eq_left extractLsb'_append_eq_right extractLsb'_eq_self)

/-! ## A word and its fields (R71) -/

/-- The word with the given fields, at the bit positions of 30_encoding.md R71. -/
def Fields.word (f : Fields) : Word64 := f.op ++ f.u ++ f.v ++ f.rsv ++ f.n ++ f.imm

theorem wordOf_eq_word (op : BitVec 8) (u v : BitVec 4) (n : BitVec 8) (imm : Word) :
    wordOf op u v n imm = Fields.word ⟨op, u, v, 0, n, imm⟩ := rfl

/-- A word is made of its fields: they leave out no bit. -/
@[simp] theorem word_fieldsOf (w : Word64) : (fieldsOf w).word = w := by
  rw [Fields.word, fieldsOf, extractLsb'_append_extractLsb'_eq_extractLsb' (start₂ := 56) (by decide),
    extractLsb'_append_extractLsb'_eq_extractLsb' (start₂ := 52) (by decide),
    extractLsb'_append_extractLsb'_eq_extractLsb' (start₂ := 48) (by decide),
    extractLsb'_append_extractLsb'_eq_extractLsb' (start₂ := 40) (by decide)]
  exact (extractLsb'_append_extractLsb'_eq_extractLsb' (start₂ := 32) rfl).trans extractLsb'_eq_self

/-- The fields of a word are the ones it is made of: each stands above the ones to its right. -/
@[simp] theorem fieldsOf_word (f : Fields) : fieldsOf f.word = f := by
  obtain ⟨op, u, v, rsv, n, imm⟩ := f
  have hop : extractLsb' 56 8 (op ++ u ++ v ++ rsv ++ n ++ imm) = op := by
    iterate 4 rw [extractLsb'_append_eq_of_le (by decide)]
    exact extractLsb'_append_eq_left
  have hu : extractLsb' 52 4 (op ++ u ++ v ++ rsv ++ n ++ imm) = u := by
    iterate 4 rw [extractLsb'_append_eq_of_le (by decide)]
    exact extractLsb'_append_eq_right
  have hv : extractLsb' 48 4 (op ++ u ++ v ++ rsv ++ n ++ imm) = v := by
    iterate 3 rw [extractLsb'_append_eq_of_le (by decide)]
    exact extractLsb'_append_eq_right
  have hrsv : extractLsb' 40 8 (op ++ u ++ v ++ rsv ++ n ++ imm) = rsv := by
    iterate 2 rw [extractLsb'_append_eq_of_le (by decide)]
    exact extractLsb'_append_eq_right
  have hn : extractLsb' 32 8 (op ++ u ++ v ++ rsv ++ n ++ imm) = n := by
    rw [extractLsb'_append_eq_of_le (by decide)]
    exact extractLsb'_append_eq_right
  have himm : extractLsb' 0 32 (op ++ u ++ v ++ rsv ++ n ++ imm) = imm := extractLsb'_append_eq_right
  simp only [fieldsOf, Fields.word, Fields.mk.injEq]
  exact ⟨hop, hu, hv, hrsv, hn, himm⟩

theorem word_inj {f g : Fields} : f.word = g.word ↔ f = g :=
  ⟨fun h => by rw [← fieldsOf_word f, h, fieldsOf_word], congrArg _⟩

/-- A mask acts on each field apart. -/
theorem word_and_word (f g : Fields) : f.word &&& g.word =
    Fields.word ⟨f.op &&& g.op, f.u &&& g.u, f.v &&& g.v, f.rsv &&& g.rsv, f.n &&& g.n, f.imm &&& g.imm⟩ := by
  simp only [Fields.word]
  change (f.op ++ f.u ++ f.v ++ f.rsv ++ f.n ++ f.imm : BitVec (8 + 4 + 4 + 8 + 8 + 32)) &&&
    (g.op ++ g.u ++ g.v ++ g.rsv ++ g.n ++ g.imm) = _
  simp only [BitVec.and_append]

/-! ## The opcode map (R78) -/

/-- No opcode has two rows. -/
theorem rows_op_nodup : (rows.map Row.op).Nodup := by decide

/-- The row of an opcode is the one row of the map that bears it. -/
theorem row?_eq_some_iff {op : BitVec 8} {r : Row} : row? op = some r ↔ r ∈ rows ∧ r.op = op := by
  have found {r' : Row} (h : row? op = some r') : r' ∈ rows ∧ r'.op = op :=
    ⟨List.mem_of_find?_eq_some h, by simpa using List.find?_some h⟩
  refine ⟨found, fun ⟨hr, hop⟩ => ?_⟩
  have hsome : (row? op).isSome := List.find?_isSome.mpr ⟨r, hr, by simpa using hop⟩
  obtain ⟨r', hr'⟩ := Option.isSome_iff_exists.mp hsome
  obtain ⟨hmem, hop'⟩ := found hr'
  rw [hr', List.inj_on_of_nodup_map rows_op_nodup hmem hr (hop'.trans hop.symm)]

/-- A word matches a row: its opcode is the row's, and every field that must be zero is (30_encoding.md R76 stage 1). -/
def Row.Matches (r : Row) (f : Fields) : Prop := r.op = f.op ∧ f.rsv = 0 ∧ r.format.unusedZero f = true

/-- What decodes is what matches a row of the map, and the row builds the command. -/
theorem decode_eq_ok_iff {w : Word64} {i : Instr} :
    decode w = .ok i ↔ ∃ r ∈ rows, r.Matches (fieldsOf w) ∧ r.build (fieldsOf w) = i := by
  have run {r : Row} (hr : row? (fieldsOf w).op = some r) :
      decode w = .ok i ↔ (fieldsOf w).rsv = 0 ∧ r.format.unusedZero (fieldsOf w) = true ∧ r.build (fieldsOf w) = i := by
    simp only [decode, hr]
    split_ifs <;> simp_all
  constructor
  · intro h
    cases hr : row? (fieldsOf w).op with
    | none => simp [decode, hr] at h
    | some r =>
      obtain ⟨hrsv, hunused, hbuild⟩ := (run hr).mp h
      obtain ⟨hmem, hop⟩ := row?_eq_some_iff.mp hr
      exact ⟨r, hmem, ⟨hop, hrsv, hunused⟩, hbuild⟩
  · rintro ⟨r, hmem, ⟨hop, hrsv, hunused⟩, hbuild⟩
    exact (run (row?_eq_some_iff.mpr ⟨hmem, hop⟩)).mpr ⟨hrsv, hunused, hbuild⟩

/-! ## The round trip (R72, R75, R87) -/

/-- A bit operand is read back from `N[0]`. -/
theorem getLsbD_bitField (bit : Bool) : (bitField bit).getLsbD 0 = bit := by cases bit <;> rfl

/-- A bit operand leaves `N[7:1]` zero. -/
theorem extractLsb'_bitField (bit : Bool) : (bitField bit).extractLsb' 1 7 = 0 := by cases bit <;> rfl

/-- A field `N` with bits 7:1 zero is a bit operand. -/
theorem bitField_of_extractLsb' {n : BitVec 8} (h : n.extractLsb' 1 7 = 0) : bitField (n.getLsbD 0) = n := by
  revert n
  decide

/-- The decoder on a word whose `RSV` is zero. -/
theorem decode_wordOf {op : BitVec 8} {u v : BitVec 4} {n : BitVec 8} {imm : Word} {r : Row} {i : Instr}
    (hr : row? op = some r) (hunused : r.format.unusedZero ⟨op, u, v, 0, n, imm⟩ = true)
    (hbuild : r.build ⟨op, u, v, 0, n, imm⟩ = i) : decode (wordOf op u v n imm) = .ok i := by
  obtain ⟨hmem, hop⟩ := row?_eq_some_iff.mp hr
  rw [decode_eq_ok_iff, wordOf_eq_word, fieldsOf_word]
  exact ⟨r, hmem, ⟨hop, rfl, hunused⟩, hbuild⟩

/-- Settles O2, command by command: the row of its opcode, the fields it leaves at zero, and the operands read back.
A bit in `N[0]` and a pair packed in `IMM` are the operands that are not a whole field. -/
theorem decodeOfEncode : Obligations.DecodeOfEncode := by
  intro i
  cases i with
  | bpush b bit =>
    exact decode_wordOf rfl (by simp [Format.unusedZero, extractLsb'_bitField])
      (congrArg (Instr.bpush b) (getLsbD_bitField bit))
  | bwr b bit index =>
    exact decode_wordOf rfl (by simp [Format.unusedZero, extractLsb'_bitField])
      (congrArg (Instr.bwr b · index) (getLsbD_bitField bit))
  | sinit u width height =>
    exact decode_wordOf rfl rfl (congrArg₂ (Instr.sinit u) extractLsb'_append_eq_left extractLsb'_append_eq_right)
  | sfind u x y =>
    exact decode_wordOf rfl rfl (congrArg₂ (Instr.sfind u) extractLsb'_append_eq_left extractLsb'_append_eq_right)
  | _ => exact decode_wordOf rfl rfl rfl

/-- The fields as a format spells them: `RSV` and the fields it does not use are zero (30_encoding.md R72). -/
def Format.spelled : Format → Fields → Fields
  | .z, f => ⟨f.op, 0, 0, 0, 0, 0⟩
  | .i, f => ⟨f.op, 0, 0, 0, 0, f.imm⟩
  | .u, f => ⟨f.op, f.u, 0, 0, 0, 0⟩
  | .ub, f => ⟨f.op, f.u, 0, 0, bitField (f.n.getLsbD 0), 0⟩
  | .un, f => ⟨f.op, f.u, 0, 0, f.n, 0⟩
  | .uni, f => ⟨f.op, f.u, 0, 0, f.n, f.imm⟩
  | .ubi, f => ⟨f.op, f.u, 0, 0, bitField (f.n.getLsbD 0), f.imm⟩
  | .ui, f => ⟨f.op, f.u, 0, 0, 0, f.imm⟩
  | .uv, f => ⟨f.op, f.u, f.v, 0, 0, 0⟩

/-- Fields that are zero where they must be stand as the format spells them. -/
theorem spelled_eq_self {φ : Format} {f : Fields} (hrsv : f.rsv = 0) (h : φ.unusedZero f = true) : φ.spelled f = f := by
  obtain ⟨op, u, v, rsv, n, imm⟩ := f
  cases φ <;>
    simp_all only [Format.unusedZero, Format.spelled, Bool.and_eq_true, beq_iff_eq, bitField_of_extractLsb']

/-- The two halves of `IMM`, joined again. -/
theorem halves_append (imm : Word) : imm.extractLsb' 16 16 ++ imm.extractLsb' 0 16 = imm :=
  (extractLsb'_append_extractLsb'_eq_extractLsb' rfl).trans extractLsb'_eq_self

/-- What a row builds is encoded as the word of the row's opcode and of the fields the row's format uses. -/
theorem encode_build {r : Row} (hr : r ∈ rows) (f : Fields) :
    encode (r.build f) = (r.format.spelled { f with op := r.op }).word := by
  have packed (op : BitVec 8) : wordOf op f.u 0 0 (f.imm.extractLsb' 16 16 ++ f.imm.extractLsb' 0 16) =
      Fields.word ⟨op, f.u, 0, 0, 0, f.imm⟩ := by rw [halves_append, wordOf_eq_word]
  revert r
  simp only [rows, List.forall_mem_cons, List.not_mem_nil, false_imp_iff, implies_true, and_true]
  exact ⟨rfl, rfl, rfl, rfl, rfl, rfl, rfl, rfl, rfl, rfl, rfl, rfl, rfl, rfl, rfl, rfl, rfl, rfl, packed 0x30, rfl, rfl,
    packed 0x33, rfl, rfl, rfl, rfl⟩

/-- Settles O3: the row a word matches builds a command whose encoding has the word's own fields. -/
theorem spellingIsUnique : Obligations.SpellingIsUnique := by
  intro w i hw
  obtain ⟨r, hr, ⟨hop, hrsv, hunused⟩, rfl⟩ := decode_eq_ok_iff.mp hw
  rw [encode_build hr, hop, spelled_eq_self hrsv hunused, word_fieldsOf]

/-! ## opcode_table.json (R82) -/

/-- The mask of a format, field by field: 1 in every bit that must be zero, and in all of `OP` and `RSV`. -/
def Format.maskFields : Format → Fields
  | .z => ⟨0xFF, 0xF, 0xF, 0xFF, 0xFF, 0xFFFFFFFF⟩
  | .i => ⟨0xFF, 0xF, 0xF, 0xFF, 0xFF, 0⟩
  | .u => ⟨0xFF, 0, 0xF, 0xFF, 0xFF, 0xFFFFFFFF⟩
  | .ub => ⟨0xFF, 0, 0xF, 0xFF, 0xFE, 0xFFFFFFFF⟩
  | .un => ⟨0xFF, 0, 0xF, 0xFF, 0, 0xFFFFFFFF⟩
  | .uni => ⟨0xFF, 0, 0xF, 0xFF, 0, 0⟩
  | .ubi => ⟨0xFF, 0, 0xF, 0xFF, 0xFE, 0⟩
  | .ui => ⟨0xFF, 0, 0xF, 0xFF, 0xFF, 0⟩
  | .uv => ⟨0xFF, 0, 0, 0xFF, 0xFF, 0xFFFFFFFF⟩

theorem word_maskFields (φ : Format) : φ.maskFields.word = φ.mask := by cases φ <;> rfl

/-- Bits 7:1 of a field `N` are zero exactly when the mask of a bit operand leaves nothing of it. -/
theorem and_bitMask_eq_zero_iff (n : BitVec 8) : n &&& 0xFE = 0 ↔ n.extractLsb' 1 7 = 0 := by
  revert n
  decide

/-- A field that must be zero is tested whole, a free field not at all, the field of a bit operand in bits 7:1. -/
theorem unusedZero_iff_and_maskFields (φ : Format) (f : Fields) :
    φ.unusedZero f = true ↔ f.u &&& φ.maskFields.u = 0 ∧ f.v &&& φ.maskFields.v = 0 ∧ f.n &&& φ.maskFields.n = 0 ∧
      f.imm &&& φ.maskFields.imm = 0 := by
  have nibble (x : BitVec 4) : x &&& 0xF = x := and_allOnes
  have byte (x : BitVec 8) : x &&& 0xFF = x := and_allOnes
  have word (x : Word) : x &&& 0xFFFFFFFF = x := and_allOnes
  have free {w : Nat} (x : BitVec w) : x &&& 0 = 0 := and_zero
  cases φ <;>
    simp only [Format.unusedZero, Format.maskFields, nibble, byte, word, free, and_bitMask_eq_zero_iff,
      Bool.and_eq_true, beq_iff_eq, and_assoc, true_and, and_true]

/-- Every mask takes all of `OP`. -/
theorem and_maskFields_op (φ : Format) (x : BitVec 8) : x &&& φ.maskFields.op = x := by
  cases φ <;> exact and_allOnes

/-- Every mask takes all of `RSV`. -/
theorem and_maskFields_rsv (φ : Format) (x : BitVec 8) : x &&& φ.maskFields.rsv = x := by
  cases φ <;> exact and_allOnes

/-- A word agrees with a row under its format's mask exactly when its fields match the row. -/
theorem and_mask_eq_iff (w : Word64) (r : Row) :
    w &&& r.format.mask = wordOf r.op 0 0 0 0 ↔ r.Matches (fieldsOf w) := by
  calc w &&& r.format.mask = wordOf r.op 0 0 0 0
    _ ↔ (fieldsOf w).word &&& r.format.maskFields.word = Fields.word ⟨r.op, 0, 0, 0, 0, 0⟩ := by
      rw [word_fieldsOf, word_maskFields, wordOf_eq_word]
    _ ↔ r.Matches (fieldsOf w) := by
      rw [word_and_word, word_inj, Fields.mk.injEq, and_maskFields_op, and_maskFields_rsv, Row.Matches,
        unusedZero_iff_and_maskFields]
      tauto

/-- opcode_table.json is the opcode map: each row has the opcode in bits 63:56 and its format's mask. -/
theorem opcodeTable_eq_map_rows :
    opcodeTable = rows.map fun r => (wordOf r.op 0 0 0 0, r.format.mask) := rfl

/-- What the table spells is what matches a row of the map. -/
theorem spells_iff {w : Word64} : spells w = true ↔ ∃ r ∈ rows, r.Matches (fieldsOf w) := by
  simp only [spells, opcodeTable_eq_map_rows, List.any_map, List.any_eq_true, Function.comp_apply, beq_iff_eq,
    and_mask_eq_iff]

theorem decodes_iff_spells {w : Word64} : (∃ i, decode w = .ok i) ↔ spells w = true := by
  simp only [spells_iff, decode_eq_ok_iff]
  constructor
  · rintro ⟨i, r, hr, hmatch, -⟩
    exact ⟨r, hr, hmatch⟩
  · rintro ⟨r, hr, hmatch⟩
    exact ⟨_, r, hr, hmatch, rfl⟩

/-- An encoding has the command's opcode in bits 63:56. -/
theorem op_encode (i : Instr) : (fieldsOf (encode i)).op = i.opcode := by
  cases i <;> simp only [encode, wordOf_eq_word, fieldsOf_word]

/-- Settles O4; the opcode is read off the word's one spelling. -/
theorem decodeAgreesWithTable : Obligations.DecodeAgreesWithTable := by
  refine fun w => ⟨decodes_iff_spells, fun i hw => ?_⟩
  rw [← op_encode, spellingIsUnique w i hw, fieldsOf]

/-! ## Illegal words (R79) -/

/-- A word outside the table is refused by the decoder. -/
theorem decode_eq_error_of_not_spells {w : Word64} (h : spells w = false) : ∃ e, decode w = .error e := by
  cases hw : decode w with
  | error e => exact ⟨e, rfl⟩
  | ok i => exact absurd (decodes_iff_spells.mp ⟨i, hw⟩) (by simp [h])

/-- A word that does not decode is refused, whatever gives the commands their effect. -/
theorem takeEvent_undecoded {P : Parameters} (run : Instr → State P → Host.Outcome (State P) Fault Refusal)
    {s : State P} {w : Word64} {rest : List HostEvent} {e : DecodeError} (hs : s.host = .command w :: rest)
    (hw : decode w = .error e) :
    takeEvent run s = .next (({ s with host := rest } : State P).raise .illegalCommand) := by
  rw [takeEvent, hs]
  simp only [hw]

/-- Settles O7: the step raises ILLEGAL_COMMAND on a word the decoder refuses. -/
theorem illegalWordAnswersOne : Obligations.IllegalWordAnswersOne := by
  intro s w rest hs hw
  obtain ⟨e, he⟩ := decode_eq_error_of_not_spells hw
  exact ⟨_, takeEvent_undecoded exec hs he, fails_raise _ .illegalCommand (by decide)⟩

/-! ## Worked words (R87) -/

/-- Settles O1: five words are the encodings of their commands; of the other two one has the opcode of no row, and one a
nonzero bit in `N[7:1]` of a bit operand. -/
theorem workedWordsDecode : Obligations.WorkedWordsDecode := by
  have of_encode (i : Instr) (w : Word64) (h : encode i = w) : decode w = .ok i := h ▸ decodeOfEncode i
  exact ⟨of_encode _ _ rfl, of_encode _ _ rfl, of_encode _ _ rfl, of_encode _ _ rfl, of_encode _ _ rfl, rfl, rfl⟩

end Sys2Proof
end

section
/-! Proofs of the statements of 40_bitcontainer.md, part one: bit sequences and the integers they spell, most
significant bit first (R105, R110), and the bytes of a sequence (R112, R115). -/

namespace Sys2Proof.Machine

/-! ## The integer a bit sequence spells -/

/-- What the fold has read so far moves up by the number of bits still to read. -/
theorem foldl_value (bits : List Bool) (v : Nat) :
    bits.foldl (fun v bit => 2 * v + bit.toNat) v = v * 2 ^ bits.length + valueOf bits := by
  induction bits generalizing v with
  | nil => simp [valueOf]
  | cons bit bits ih =>
    rw [valueOf, List.foldl_cons, List.foldl_cons, ih, ih, List.length_cons, pow_succ]
    ring

/-- The first bit is the most significant. -/
theorem valueOf_cons (bit : Bool) (bits : List Bool) :
    valueOf (bit :: bits) = 2 ^ bits.length * bit.toNat + valueOf bits := by
  rw [valueOf, List.foldl_cons, foldl_value]
  ring

theorem valueOf_lt (bits : List Bool) : valueOf bits < 2 ^ bits.length := by
  induction bits with
  | nil => simp [valueOf]
  | cons bit bits ih =>
    rw [valueOf_cons, List.length_cons, pow_succ]
    cases bit <;> simp <;> omega

/-- The sum of R110. -/
theorem valueOf_eq_sum (bits : List Bool) :
    valueOf bits = ∑ i : Fin bits.length, (bits[i]).toNat * 2 ^ (bits.length - 1 - i.val) := by
  induction bits with
  | nil => rfl
  | cons bit bits ih =>
    have shift (i : Fin bits.length) : bits.length - 1 - i.val = bits.length - (i.val + 1) := by omega
    rw [valueOf_cons, ih]
    simp [Fin.sum_univ_succ, shift, mul_comm]

/-- Bit `j` of the sequence is bit `len-1-j` of the integer. -/
theorem getElem?_eq_testBit_valueOf (bits : List Bool) {j : Nat} (h : j < bits.length) :
    bits[j]? = some ((valueOf bits).testBit (bits.length - 1 - j)) := by
  induction bits generalizing j with
  | nil => exact absurd h (Nat.not_lt_zero _)
  | cons bit bits ih =>
    rw [valueOf_cons, Nat.testBit_two_pow_mul_add _ (valueOf_lt bits)]
    cases j with
    | zero => cases bit <;> simp
    | succ j =>
      have hj : j < bits.length := Nat.lt_of_succ_lt_succ h
      have shift : (bit :: bits).length - 1 - (j + 1) = bits.length - 1 - j := by
        rw [List.length_cons]
        omega
      rw [List.getElem?_cons_succ, ih hj, shift, if_pos (by omega)]

/-! ## The low bits of an integer -/

/-- The low bits of an integer spell its residue. -/
theorem valueOf_bitsOf {w : Nat} (n : Nat) (v : BitVec w) : valueOf (bitsOf n v) = v.toNat % 2 ^ n := by
  induction n with
  | zero => simp [bitsOf, valueOf, Nat.mod_one]
  | succ n ih =>
    rw [bitsOf, valueOf_cons, ih, bitsOf_length, Nat.mod_pow_succ, ← Nat.toNat_testBit, Nat.add_comm, BitVec.getLsbD]

/-- Only the low `n` bits count. -/
theorem bitsOf_congr {w w' : Nat} (n : Nat) {v : BitVec w} {v' : BitVec w'}
    (h : ∀ i, i < n → v.getLsbD i = v'.getLsbD i) : bitsOf n v = bitsOf n v' := by
  induction n with
  | zero => rfl
  | succ n ih => rw [bitsOf, bitsOf, h n (Nat.lt_succ_self n), ih fun i hi => h i (Nat.lt_succ_of_lt hi)]

/-- The low `m + n` bits are those above the low `n`, then the low `n`. -/
theorem bitsOf_add {w : Nat} (m n : Nat) (v : BitVec w) : bitsOf (m + n) v = bitsOf m (v >>> n) ++ bitsOf n v := by
  induction m with
  | zero => rw [Nat.zero_add, bitsOf, List.nil_append]
  | succ m ih =>
    rw [Nat.add_right_comm, bitsOf, bitsOf, ih, BitVec.getLsbD_ushiftRight, Nat.add_comm m n, List.cons_append]

/-- Two integers in a row spell the joined integer (40_bitcontainer.md R115 (c)). -/
theorem bitsOf_append_bitsOf {m n : Nat} {p q : Word} (hmn : m + n ≤ 32) (hq : q.toNat < 2 ^ n) :
    bitsOf m p ++ bitsOf n q = bitsOf (m + n) (BitVec.ofNat 32 (p.toNat * 2 ^ n + q.toNat)) := by
  have joined (i : Nat) (hi : i < m + n) :
      (BitVec.ofNat 32 (p.toNat * 2 ^ n + q.toNat)).getLsbD i = if i < n then q.getLsbD i else p.getLsbD (i - n) := by
    rw [BitVec.getLsbD_ofNat, decide_eq_true (by omega : i < 32), Bool.true_and, Nat.mul_comm,
      Nat.testBit_two_pow_mul_add _ hq]
    rfl
  rw [bitsOf_add]
  congr 1
  · refine bitsOf_congr m fun i hi => ?_
    rw [BitVec.getLsbD_ushiftRight, joined _ (by omega), if_neg (by omega), Nat.add_sub_cancel_left]
  · refine bitsOf_congr n fun i hi => ?_
    rw [joined _ (by omega), if_pos hi]

/-! ## Byte strings -/

/-- The bits of a byte string, each byte most significant bit first. -/
def bitsOfBytes (bytes : List Byte) : List Bool := bytes.flatMap fun byte => bitsOf 8 byte

theorem bitsOfBytes_cons (byte : Byte) (bytes : List Byte) :
    bitsOfBytes (byte :: bytes) = bitsOf 8 byte ++ bitsOfBytes bytes := rfl

@[simp] theorem bitsOfBytes_length (bytes : List Byte) : (bitsOfBytes bytes).length = 8 * bytes.length := by
  induction bytes with
  | nil => rfl
  | cons byte bytes ih =>
    rw [bitsOfBytes_cons, List.length_append, ih, bitsOf_length, List.length_cons]
    omega

/-- Bits `8k` to `8k+7` are byte `k`. -/
theorem take_drop_bitsOfBytes {bytes : List Byte} {k : Nat} (h : k < bytes.length) :
    ((bitsOfBytes bytes).drop (8 * k)).take 8 = bitsOf 8 bytes[k] := by
  induction bytes generalizing k with
  | nil => exact absurd h (Nat.not_lt_zero _)
  | cons byte bytes ih =>
    cases k with
    | zero => exact List.take_left' (bitsOf_length 8 byte)
    | succ k =>
      rw [bitsOfBytes_cons, Nat.mul_succ, Nat.add_comm, ← List.drop_drop, List.drop_left' (bitsOf_length 8 byte)]
      exact ih (Nat.lt_of_succ_lt_succ h)

end Sys2Proof.Machine
end

section
/-! Proofs of the statements of 40_bitcontainer.md, part two: what each command does where its operands are legal and
where they are not, and the statements from it. -/

namespace Sys2Proof.Machine

/-! ## Answers -/

section Answers
variable {i : Instr} {s : State}

theorem onlyContainer_store (s : State) (c : Fin Config.nb) (bits : List Bool) (flag : Bool) (data : Word) :
    OnlyContainer s ((s.setContainer c bits).respond flag data) c :=
  ⟨fun d hd => setContainer_container_other s c bits d hd, rfl⟩

/-- A command that only answers. -/
theorem answer_of_respond {flag : Bool} {data : Word} (h : exec i s = .next (s.respond flag data)) :
    ∃ t, exec i s = .next t ∧ Responds s t 0 flag data ∧ OnlyResponse s t :=
  ⟨_, h, responds_respond s flag data s rfl, rfl⟩

/-- A command that writes a container. -/
theorem answer_of_store {c : Fin Config.nb} {bits : List Bool}
    (h : exec i s = .next ((s.setContainer c bits).respond false 0)) :
    ∃ t, exec i s = .next t ∧ Responds s t 0 false 0 ∧ OnlyContainer s t c ∧ t.container c = bits :=
  ⟨_, h, responds_respond s false 0 _ rfl, onlyContainer_store .., setContainer_container_same ..⟩

theorem append_of_fits {c : Fin Config.nb} {bits : List Bool}
    (h : (s.container c).length + bits.length ≤ Config.bcap) :
    s.append c bits = (s.setContainer c (s.container c ++ bits)).respond false 0 :=
  if_neg (Nat.not_lt.mpr h)

theorem append_of_full {c : Fin Config.nb} {bits : List Bool}
    (h : (s.container c).length + bits.length > Config.bcap) : s.append c bits = s.raise .containerFull :=
  if_pos h

/-- A command that appends bits that fit (40_bitcontainer.md R101). -/
theorem answer_of_append {c : Fin Config.nb} {bits : List Bool} (h : exec i s = .next (s.append c bits))
    (hfit : (s.container c).length + bits.length ≤ Config.bcap) :
    ∃ t, exec i s = .next t ∧ Responds s t 0 false 0 ∧ OnlyContainer s t c ∧
      t.container c = s.container c ++ bits :=
  answer_of_store (append_of_fits hfit ▸ h)

theorem failsWith_of_raise {st : Status} (h : exec i s = .next (s.raise st)) (hst : st ≠ .ok) :
    FailsWith i s st.code :=
  ⟨_, h, fails_raise s st hst⟩

/-- A command that appends bits that do not fit (40_bitcontainer.md R101). -/
theorem failsWith_of_append {c : Fin Config.nb} {bits : List Bool} (h : exec i s = .next (s.append c bits))
    (hfull : (s.container c).length + bits.length > Config.bcap) : FailsWith i s 9 :=
  failsWith_of_raise (st := .containerFull) (append_of_full hfull ▸ h) (by decide)

end Answers

/-! ## Operands that are not legal -/

/-- An illegal operand value stops every command at its first check (60_exceptions.md R211 code 2). -/
theorem exec_of_not_wellFormed {i : Instr} (s : State) (h : i.wellFormed = false) :
    exec i s = .next (s.raise .badOperand) := by
  have missing {n : Nat} {unit : Option (Fin n)} (h : unit.isSome = false) : unit = none :=
    Option.isNone_iff_eq_none.mp (Option.isSome_eq_false_iff.mp h)
  cases i with
  | srst | rdesr | clresr | pseed | pnext | pdraws => cases h
  | bclr | bpush | bput | brd | bwr | bsize | bempty | btoint | brdbyte =>
    simp only [exec, execBclr, execBpush, execBput, execBrd, execBwr, execBsize, execBempty, execBtoint, execBrdbyte,
      missing h]
  | sgen | sext | sfind | ssize | sbegin | snext =>
    simp only [exec, execSgen, execSext, execSfind, execSsize, execSbegin, execSnext, missing h]
  | bpushv | bfromint | beq | sinit | scopy =>
    simp only [exec, execBpushv, execBfromint, execBeq, execSinit, execScopy]
    split
    next hfst hsnd => simp [Instr.wellFormed, Instr.wellFormedAt, hfst, hsnd] at h
    · rfl

theorem failsWith_badOperand {i : Instr} (s : State) (h : i.wellFormed = false) : FailsWith i s 2 :=
  failsWith_of_raise (exec_of_not_wellFormed s h) (by decide)

theorem container?_isSome_eq_false {b : BitVec 4} (h : b.toNat ≥ Config.nb) :
    (container? Config.ksbc b).isSome = false := by
  rw [(container?_eq_none _ b).mpr h, Option.isSome_none]

theorem container?_of_eq {b : BitVec 4} {c : Fin Config.nb} (hb : b.toNat = c.val) :
    container? Config.ksbc b = some c :=
  (container?_eq_some Config.ksbc b c).mpr hb

theorem onContainer_eq {b : BitVec 4} {c : Fin Config.nb} (hb : b.toNat = c.val) (s : State) (f : List Bool → Bool) :
    onContainer b s f = f (s.container c) := by
  rw [onContainer, container?_of_eq hb]

theorem onContainer_iff {b : BitVec 4} {s : State} {f : List Bool → Bool} :
    onContainer b s f = true ↔ ∃ c, container? Config.ksbc b = some c ∧ f (s.container c) = true := by
  unfold onContainer
  split <;> simp [*]

/-- An index outside the container stops the command at its second check (40_bitcontainer.md R102). -/
theorem exec_of_indexOutside {i : Instr} {s : State} (h : indexOutside i s = true) :
    exec i s = .next (s.raise .indexRange) := by
  cases i with
  | brd b index =>
    rw [indexOutside] at h
    obtain ⟨c, hb, hindex⟩ := onContainer_iff.mp h
    simp only [exec, execBrd, hb, List.getElem?_eq_none (of_decide_eq_true hindex)]
  | bwr | brdbyte | btoint =>
    rw [indexOutside] at h
    obtain ⟨c, hb, hindex⟩ := onContainer_iff.mp h
    simp only [exec, execBwr, execBrdbyte, execBtoint, hb, if_pos (of_decide_eq_true hindex)]
  | _ => cases h

theorem failsWith_indexRange {i : Instr} {s : State} (h : indexOutside i s = true) : FailsWith i s 8 :=
  failsWith_of_raise (exec_of_indexOutside h) (by decide)

/-! ## Operands that are legal: one equation for each command -/

section Commands
variable {b : BitVec 4} {c : Fin Config.nb} {s : State} (hb : b.toNat = c.val)
include hb

theorem exec_bclr : exec (.bclr b) s = .next ((s.setContainer c []).respond false 0) := by
  simp only [exec, execBclr, container?_of_eq hb]

theorem exec_bpush (bit : Bool) : exec (.bpush b bit) s = .next (s.append c [bit]) := by
  simp only [exec, execBpush, container?_of_eq hb]

theorem exec_bpushv {n : BitVec 8} (hn : n.toNat ≤ 32) (v : Word) :
    exec (.bpushv b n v) s = .next (s.append c (bitsOf n.toNat v)) := by
  simp only [exec, execBpushv, container?_of_eq hb, countOk, decide_eq_true hn]

theorem exec_bput (byte : Byte) : exec (.bput b byte) s = .next (s.append c (bitsOf 8 byte)) := by
  simp only [exec, execBput, container?_of_eq hb]

theorem exec_brd {index : Word} {bit : Bool} (h : (s.container c)[index.toNat]? = some bit) :
    exec (.brd b index) s = .next (s.respond bit 0) := by
  simp only [exec, execBrd, container?_of_eq hb, h]

theorem exec_bwr {index : Word} (h : index.toNat < (s.container c).length) (bit : Bool) :
    exec (.bwr b bit index) s =
      .next ((s.setContainer c ((s.container c).set index.toNat bit)).respond false 0) := by
  simp only [exec, execBwr, container?_of_eq hb, if_neg (Nat.not_le.mpr h)]

theorem exec_bsize : exec (.bsize b) s = .next (s.respond false (BitVec.ofNat 32 (s.container c).length)) := by
  simp only [exec, execBsize, container?_of_eq hb]

theorem exec_bempty : exec (.bempty b) s = .next (s.respond (s.container c).isEmpty 0) := by
  simp only [exec, execBempty, container?_of_eq hb]

theorem exec_btoint (h : (s.container c).length ≤ 32) :
    exec (.btoint b) s = .next (s.respond false (BitVec.ofNat 32 (valueOf (s.container c)))) := by
  simp only [exec, execBtoint, container?_of_eq hb, if_neg (Nat.not_lt.mpr h)]

theorem exec_bfromint {n : BitVec 8} (hn : n.toNat ≤ 32) (v : Word) :
    exec (.bfromint b n v) s = .next ((s.setContainer c (bitsOf n.toNat v)).respond false 0) := by
  simp only [exec, execBfromint, container?_of_eq hb, countOk, decide_eq_true hn]

theorem exec_brdbyte {k : Word} (h : 8 * k.toNat + 8 ≤ (s.container c).length) :
    exec (.brdbyte b k) s =
      .next (s.respond false (BitVec.ofNat 32 (valueOf (((s.container c).drop (8 * k.toNat)).take 8)))) := by
  simp only [exec, execBrdbyte, container?_of_eq hb, if_neg (Nat.not_lt.mpr h)]

theorem exec_beq {b' : BitVec 4} {c' : Fin Config.nb} (hb' : b'.toNat = c'.val) :
    exec (.beq b b') s = .next (s.respond (s.container c == s.container c') 0) := by
  simp only [exec, execBeq, container?_of_eq hb, container?_of_eq hb']

end Commands

/-! ## Appends (R104 to R106) -/

/-- The N field of a bit operand (30_encoding.md R72). -/
theorem bitField_eq (bit : Bool) : bitField bit = if bit then 1 else 0 := by cases bit <;> rfl

/-- Settles O23: one bit is appended. -/
theorem bpushAppendsOneBit : Obligations.BpushAppendsOneBit := by
  refine fun b bit s => ⟨?_, fun hb => failsWith_badOperand s (container?_isSome_eq_false hb), fun c hb => ?_⟩
  · exact congrArg (wordOf 0x21 b 0 · 0) (bitField_eq bit)
  · exact ⟨answer_of_append (exec_bpush hb bit), failsWith_of_append (exec_bpush hb bit)⟩

/-- A unit or a bit count out of range (30_encoding.md R75). -/
theorem container?_and_countOk_eq_false {b : BitVec 4} {n : BitVec 8} (h : b.toNat ≥ Config.nb ∨ n.toNat > 32) :
    ((container? Config.ksbc b).isSome && countOk n) = false :=
  Bool.and_eq_false_iff.mpr (h.imp container?_isSome_eq_false fun hn => decide_eq_false (Nat.not_le.mpr hn))

/-- Settles O24: the bits appended are the low bits of the integer, the most significant first. -/
theorem bpushvAppendsMsbFirst : Obligations.BpushvAppendsMsbFirst := by
  refine fun b n v s => ⟨rfl, fun h => failsWith_badOperand s (container?_and_countOk_eq_false h),
    fun c hb hn => ?_⟩
  have appends := exec_bpushv (s := s) hb hn v
  have len : (bitsOf n.toNat v).length = n.toNat := bitsOf_length ..
  refine ⟨fun hfit => ?_, fun hfull => failsWith_of_append appends (len.symm ▸ hfull)⟩
  obtain ⟨t, ht, hresp, honly, hbits⟩ := answer_of_append appends (len.symm ▸ hfit)
  exact ⟨t, _, ht, hresp, honly, hbits, len, bitsOf_getElem? n.toNat v⟩

/-- BPUT is BPUSHV of 8 bits, also where the container does not exist (R106). -/
theorem exec_bput_eq_bpushv (b : BitVec 4) (byte : Byte) (s : State) :
    exec (.bput b byte) s = exec (.bpushv b 8 (byte.setWidth 32)) s := by
  by_cases h : b.toNat < Config.nb
  · have low : bitsOf 8 byte = bitsOf 8 (byte.setWidth 32) :=
      bitsOf_congr 8 fun i hi => by simp [show i < 32 by omega]
    rw [exec_bput (c := ⟨b.toNat, h⟩) rfl, exec_bpushv (c := ⟨b.toNat, h⟩) rfl (by decide), low]
    rfl
  · have hb := Nat.not_lt.mp h
    rw [exec_of_not_wellFormed (i := .bput b byte) s (container?_isSome_eq_false hb),
      exec_of_not_wellFormed (i := .bpushv b 8 _) s (container?_and_countOk_eq_false (.inl hb))]

/-- Settles O25. -/
theorem bputAppendsByte : Obligations.BputAppendsByte := by
  refine fun b byte s => ⟨rfl, exec_bput_eq_bpushv b byte s,
    fun hb => failsWith_badOperand s (container?_isSome_eq_false hb), fun c hb => ?_⟩
  have appends := exec_bput (s := s) hb byte
  refine ⟨fun hfit => ?_, failsWith_of_append appends⟩
  obtain ⟨t, ht, hresp, honly, hbits⟩ := answer_of_append appends hfit
  exact ⟨t, _, ht, hresp, honly, hbits, rfl, bitsOf_getElem? 8 byte⟩

/-- Settles O34: appends compose as lists, and the two integers in a row spell the joined one. -/
theorem appendsAreAssociative : Obligations.AppendsAreAssociative := by
  intro b c m n p q s hb hmn _ hq hcap
  have hsum : (m + n).toNat = m.toNat + n.toNat := by
    rw [BitVec.toNat_add]
    exact Nat.mod_eq_of_lt (by omega)
  obtain ⟨t, ht, -, -, hbits⟩ := answer_of_append (exec_bpushv (s := s) hb (n := m) (by omega) p)
    (by rw [bitsOf_length]; omega)
  obtain ⟨t', ht', -, -, hbits'⟩ := answer_of_append (exec_bpushv (s := t) hb (n := n) (by omega) q)
    (by rw [hbits, List.length_append, bitsOf_length, bitsOf_length]; omega)
  obtain ⟨t'', ht'', -, -, hbits''⟩ :=
    answer_of_append (exec_bpushv (s := s) hb (n := m + n) (by omega) (.ofNat 32 (p.toNat * 2 ^ n.toNat + q.toNat)))
      (by rw [bitsOf_length]; omega)
  refine ⟨t, t', t'', ht, ht', ht'', ?_⟩
  rw [hbits', hbits, hbits'', hsum, List.append_assoc, bitsOf_append_bitsOf hmn hq]

/-! ## Reads and single bits (R107 to R109, R113, R114) -/

/-- Settles O26. -/
theorem brdReadsBit : Obligations.BrdReadsBit := by
  refine fun b index s => ⟨rfl, fun hb => failsWith_badOperand s (container?_isSome_eq_false hb),
    fun c hb => ⟨fun h => ?_, fun h => ?_⟩⟩
  · have hbit := List.getElem?_eq_getElem h
    obtain ⟨t, ht, hresp, honly⟩ := answer_of_respond (exec_brd hb hbit)
    exact ⟨t, _, ht, hbit, hresp, honly⟩
  · exact failsWith_indexRange (by rw [indexOutside, onContainer_eq hb, decide_eq_true h])

/-- Settles O27: the write is that of a list at a valid index. -/
theorem bwrWritesBit : Obligations.BwrWritesBit := by
  refine fun b bit index s => ⟨?_, fun hb => failsWith_badOperand s (container?_isSome_eq_false hb),
    fun c hb => ⟨fun h => ?_, fun h => ?_⟩⟩
  · exact congrArg (wordOf 0x25 b 0 · index) (bitField_eq bit)
  · obtain ⟨t, ht, hresp, honly, hbits⟩ := answer_of_store (exec_bwr hb h bit)
    refine ⟨t, ht, hresp, honly, ?_⟩
    rw [hbits]
    exact ⟨List.length_set .., List.getElem?_set_self h, fun j hj => List.getElem?_set_ne hj.symm⟩
  · exact failsWith_indexRange (by rw [indexOutside, onContainer_eq hb, decide_eq_true h])

/-- Settles O28: a length within the capacity fits DATA. -/
theorem bsizeReadsLength : Obligations.BsizeReadsLength := by
  refine fun b s => ⟨rfl, fun hb => failsWith_badOperand s (container?_isSome_eq_false hb), fun c hb hcap => ?_⟩
  obtain ⟨t, ht, hresp, honly⟩ := answer_of_respond (exec_bsize (s := s) hb)
  have hlt : (s.container c).length < 2 ^ 32 := hcap.trans_lt (by decide)
  exact ⟨t, _, ht, hresp, BitVec.toNat_ofNat .. ▸ Nat.mod_eq_of_lt hlt, honly⟩

/-- Settles O29. -/
theorem bemptyTestsLength : Obligations.BemptyTestsLength := by
  refine fun b s => ⟨rfl, fun hb => failsWith_badOperand s (container?_isSome_eq_false hb), fun c hb => ?_⟩
  have flag : (s.container c).isEmpty = decide ((s.container c).length = 0) := by
    cases s.container c <;> rfl
  exact flag ▸ answer_of_respond (exec_bempty (s := s) hb)

/-- Settles O33: equality of lists is equality of their lengths and of their elements. -/
theorem beqComparesContents : Obligations.BeqComparesContents := by
  refine fun b b' s => ⟨rfl, fun h => failsWith_badOperand s ?_, fun c c' hb hb' => ?_⟩
  · exact Bool.and_eq_false_iff.mpr (h.imp container?_isSome_eq_false container?_isSome_eq_false)
  · obtain ⟨t, ht, hresp, honly⟩ := answer_of_respond (exec_beq (s := s) hb hb')
    refine ⟨t, _, ht, hresp, honly, ?_⟩
    rw [beq_iff_eq]
    constructor
    · intro h
      exact ⟨congrArg _ h, fun n _ => congrArg (·[n]?) h⟩
    · rintro ⟨hlen, hbits⟩
      refine List.ext_getElem?' fun n hn => hbits n ?_
      rwa [← hlen, max_self] at hn

/-! ## Integers and bytes (R110 to R112) -/

/-- A sequence of at most 32 bits is read without loss. -/
theorem toNat_ofNat_valueOf {bits : List Bool} (h : bits.length ≤ 32) :
    (BitVec.ofNat 32 (valueOf bits)).toNat = valueOf bits := by
  rw [BitVec.toNat_ofNat]
  exact Nat.mod_eq_of_lt ((valueOf_lt bits).trans_le (Nat.pow_le_pow_right (by decide) h))

/-- Settles O30. -/
theorem btointReadsInteger : Obligations.BtointReadsInteger := by
  refine fun b s => ⟨rfl, fun hb => failsWith_badOperand s (container?_isSome_eq_false hb),
    fun c hb => ⟨fun h => ?_, fun h => ?_⟩⟩
  · obtain ⟨t, ht, hresp, honly⟩ := answer_of_respond (exec_btoint hb h)
    exact ⟨t, _, ht, hresp, honly, (toNat_ofNat_valueOf h).trans (valueOf_eq_sum _)⟩
  · exact failsWith_indexRange (by rw [indexOutside, onContainer_eq hb, decide_eq_true h])

/-- A second content replaces the first. -/
theorem setContainer_respond_setContainer (s : State) (c : Fin Config.nb) (old bits : List Bool) (flag : Bool)
    (data : Word) :
    ((s.setContainer c old).respond flag data).setContainer c bits = (s.setContainer c bits).respond flag data := by
  simp only [State.setContainer, State.respond, Vector.set_set]

/-- BCLR and then BPUSHV leave what BFROMINT leaves, and one response more (R111). -/
theorem exec_bclr_bpushv {b : BitVec 4} {c : Fin Config.nb} {n : BitVec 8} (hb : b.toNat = c.val)
    (hn : n.toNat ≤ 32) (v : Word) (s : State) :
    ∃ t1, exec (.bclr b) s = .next t1 ∧ exec (.bpushv b n v) t1 =
      .next (((s.setContainer c (bitsOf n.toNat v)).respond false 0).respond false 0) := by
  refine ⟨_, exec_bclr hb, ?_⟩
  have empty : ((s.setContainer c []).respond false 0).container c = [] := setContainer_container_same ..
  have fits : n.toNat ≤ Config.bcap := hn.trans (by decide)
  rw [exec_bpushv hb hn, append_of_fits, empty, List.nil_append, setContainer_respond_setContainer]
  simpa [empty] using fits

/-- An integer is read back from as many of its bits as it needs. -/
theorem ofNat_valueOf_bitsOf {w n : Nat} {v : BitVec w} (h : v.toNat < 2 ^ n) :
    BitVec.ofNat 32 (valueOf (bitsOf n v)) = v.setWidth 32 := by
  rw [valueOf_bitsOf, Nat.mod_eq_of_lt h, BitVec.ofNat_toNat]

/-- Settles O31. -/
theorem bfromintReplacesContent : Obligations.BfromintReplacesContent := by
  refine fun b n v s => ⟨rfl, fun h => failsWith_badOperand s (container?_and_countOk_eq_false h),
    fun c hb hn => ?_⟩
  have content : ((s.setContainer c (bitsOf n.toNat v)).respond false 0).container c = bitsOf n.toNat v :=
    setContainer_container_same ..
  have len : (bitsOf n.toNat v).length = n.toNat := bitsOf_length ..
  refine ⟨_, exec_bfromint hb hn v, responds_respond s false 0 _ rfl, onlyContainer_store .., ?_⟩
  rw [content]
  refine ⟨len, bitsOf_getElem? n.toNat v, ?_, fun hv => ?_⟩
  · obtain ⟨t1, hclr, hpush⟩ := exec_bclr_bpushv hb hn v s
    exact ⟨t1, _, hclr, hpush, rfl⟩
  · refine ⟨_, exec_btoint hb (by rwa [content, len]), ?_⟩
    rw [content, ofNat_valueOf_bitsOf hv, BitVec.setWidth_eq]
    exact responds_respond _ _ _ _ rfl

/-- Eight bits are the low byte of DATA, the first as its bit 7, with 0 above them (R112). -/
theorem ofNat_valueOf_byte {bits : List Bool} (h : bits.length = 8) :
    (BitVec.ofNat 32 (valueOf bits)).extractLsb' 8 24 = 0 ∧
      ∀ j, j < 8 → bits[j]? = some ((BitVec.ofNat 32 (valueOf bits)).getLsbD (7 - j)) := by
  constructor
  · have hlt : valueOf bits < 2 ^ 8 := h ▸ valueOf_lt bits
    apply BitVec.eq_of_toNat_eq
    rw [BitVec.extractLsb'_toNat, toNat_ofNat_valueOf (by omega), Nat.shiftRight_eq_div_pow, Nat.div_eq_of_lt hlt]
    rfl
  · intro j hj
    rw [getElem?_eq_testBit_valueOf bits (by omega), h, BitVec.getLsbD_ofNat, decide_eq_true (by omega), Bool.true_and]

/-- Settles O32. -/
theorem brdbyteReadsWholeByte : Obligations.BrdbyteReadsWholeByte := by
  refine fun b k s => ⟨rfl, fun hb => failsWith_badOperand s (container?_isSome_eq_false hb),
    fun c hb => ⟨fun h => ?_, fun h => ?_⟩⟩
  · have len : (((s.container c).drop (8 * k.toNat)).take 8).length = 8 := by
      rw [List.length_take, List.length_drop]
      omega
    obtain ⟨high, bits⟩ := ofNat_valueOf_byte len
    obtain ⟨t, ht, hresp, honly⟩ := answer_of_respond (exec_brdbyte hb h)
    refine ⟨t, _, ht, hresp, honly, high, fun j hj => ?_⟩
    rw [← bits j hj, List.getElem?_take_of_lt hj, List.getElem?_drop]
  · exact failsWith_indexRange (by rw [indexOutside, onContainer_eq hb, decide_eq_true h])

/-! ## Byte strings (R115 (a)) -/

theorem execAll_cons_of_next {i : Instr} {rest : List Instr} {s t : State} (h : exec i s = .next t) :
    execAll (i :: rest) s = execAll rest t := by
  simp only [execAll, h]

/-- One BPUT for each byte appends the bits of the string. -/
theorem execAll_bput {b : BitVec 4} {c : Fin Config.nb} (hb : b.toNat = c.val) (bytes : List Byte) {s : State}
    (hcap : (s.container c).length + 8 * bytes.length ≤ Config.bcap) :
    ∃ t, execAll (bytes.map fun byte => .bput b byte) s = .next t ∧
      t.container c = s.container c ++ bitsOfBytes bytes := by
  induction bytes generalizing s with
  | nil => exact ⟨s, rfl, (List.append_nil _).symm⟩
  | cons byte bytes ih =>
    rw [List.length_cons] at hcap
    obtain ⟨t, ht, -, -, hbits⟩ := answer_of_append (exec_bput (s := s) hb byte) (by rw [bitsOf_length]; omega)
    obtain ⟨t', ht', hbits'⟩ := ih (s := t) (by rw [hbits, List.length_append, bitsOf_length]; omega)
    refine ⟨t', (execAll_cons_of_next ht).trans ht', ?_⟩
    rw [hbits', hbits, bitsOfBytes_cons, List.append_assoc]

/-- BFROMBYTES leaves the bits of the string, whatever the container held (30_encoding.md R91). -/
theorem execAll_bfrombytes {b : BitVec 4} {c : Fin Config.nb} {bytes : List Byte} (hb : b.toNat = c.val)
    (hcap : 8 * bytes.length ≤ Config.bcap) (s : State) :
    ∃ t, execAll (bfrombytes b bytes) s = .next t ∧ t.container c = bitsOfBytes bytes := by
  obtain ⟨t, ht, -, -, hempty⟩ := answer_of_store (exec_bclr (s := s) hb)
  obtain ⟨t', ht', hbits⟩ := execAll_bput hb bytes (s := t) (by rwa [hempty, List.length_nil, Nat.zero_add])
  exact ⟨t', (execAll_cons_of_next ht).trans ht', by rw [hbits, hempty, List.nil_append]⟩

/-- Settles O35: BRDBYTE reads the eight bits that BPUT appended for its byte. -/
theorem byteStringRoundTrip : Obligations.ByteStringRoundTrip := by
  intro b c bytes s hb hcap
  obtain ⟨t, ht, hbits⟩ := execAll_bfrombytes hb hcap s
  have len : (t.container c).length = 8 * bytes.length := hbits ▸ bitsOfBytes_length bytes
  refine ⟨t, ht, len, fun k hk => ?_⟩
  have hk32 : (BitVec.ofNat 32 k).toNat = k :=
    BitVec.toNat_ofNat .. ▸ Nat.mod_eq_of_lt (((by omega : k ≤ 8 * bytes.length).trans hcap).trans_lt (by decide))
  obtain ⟨t', ht', hresp, -⟩ := answer_of_respond (exec_brdbyte (s := t) (k := BitVec.ofNat 32 k) hb (by omega))
  refine ⟨t', ht', ?_⟩
  rwa [hk32, hbits, take_drop_bitsOfBytes hk, ofNat_valueOf_bitsOf bytes[k].isLt] at hresp

/-! ## What makes a container shorter (R103) -/

theorem growTo_containers {s t : State} {k : Fin Config.ns} {target : Nat} (h : s.growTo k target = .next t) :
    t.containers = s.containers := by
  obtain ⟨-, rfl⟩ | ⟨-, -, rfl⟩ | ⟨-, -, g, -, rfl⟩ := growTo_next s t k target h <;> rfl

/-- The commands that write a container. -/
def writesContainer : Instr → Bool
  | .srst | .bclr _ | .bpush _ _ | .bpushv _ _ _ | .bput _ _ | .bwr _ _ _ | .bfromint _ _ _ => true
  | _ => false

/-- Every other command leaves them: whichever check it stops at, it answers a state with the same containers. -/
theorem exec_containers {i : Instr} {s t : State} (hi : writesContainer i = false) (h : exec i s = .next t) :
    t.containers = s.containers := by
  cases i with
  | srst | bclr | bpush | bpushv | bput | bwr | bfromint => cases hi
  | rdesr | clresr | pseed | pdraws => cases h; rfl
  | sgen | sext =>
    simp only [exec, execSgen, execSext] at h
    split at h
    · cases h
      rfl
    · obtain rfl | ⟨-, h⟩ := check_next h
      · rfl
      · obtain rfl | ⟨-, h⟩ := check_next h
        · rfl
        · exact growTo_containers h
  | pnext | brd | bsize | bempty | btoint | brdbyte | beq | sinit | sfind | scopy | ssize | sbegin | snext =>
    simp only [exec, execPnext, execBrd, execBsize, execBempty, execBtoint, execBrdbyte, execBeq, execSinit, execSfind,
      execScopy, execSsize, execSbegin, execSnext] at h
    repeat' split at h
    all_goals cases h <;> rfl

theorem length_le_setContainer {s : State} {c d : Fin Config.nb} {bits : List Bool}
    (h : d = c → (s.container d).length ≤ bits.length) :
    (s.container c).length ≤ ((s.setContainer d bits).container c).length := by
  by_cases e : c = d
  · subst e
    rw [setContainer_container_same]
    exact h rfl
  · rw [setContainer_container_other _ _ _ _ e]

theorem length_le_append (s : State) (c d : Fin Config.nb) (bits : List Bool) :
    (s.container c).length ≤ ((s.append d bits).container c).length := by
  obtain ⟨-, e⟩ | ⟨-, e⟩ := append_cases s d bits
  · rw [e, respond_container]
    refine length_le_setContainer fun _ => ?_
    rw [List.length_append]
    exact Nat.le_add_right ..
  · rw [e, raise_container]

/-- A command that may make container `c` shorter: SRST, and BCLR or BFROMINT on it. -/
def MayShorten (i : Instr) (c : Fin Config.nb) : Prop :=
  i = .srst ∨ (∃ b, i = .bclr b ∧ b.toNat = c.val) ∨ ∃ b w v, i = .bfromint b w v ∧ b.toNat = c.val

/-- No other command does: an append adds, BWR writes within the length, and the rest write no container. -/
theorem length_le_of_exec {i : Instr} {s t : State} {c : Fin Config.nb} (h : exec i s = .next t)
    (hi : ¬ MayShorten i c) : (s.container c).length ≤ (t.container c).length := by
  cases i with
  | srst => exact absurd (.inl rfl) hi
  | bclr b =>
    simp only [exec, execBclr] at h
    split at h <;> cases h
    · exact le_rfl
    next d hb =>
      exact length_le_setContainer fun e => absurd (.inr (.inl ⟨b, rfl, e ▸ (container?_eq_some ..).mp hb⟩)) hi
  | bfromint b w v =>
    simp only [exec, execBfromint] at h
    split at h <;> cases h
    next d hb _ =>
      exact length_le_setContainer fun e =>
        absurd (.inr (.inr ⟨b, w, v, rfl, e ▸ (container?_eq_some ..).mp hb⟩)) hi
    · exact le_rfl
  | bpush | bput =>
    simp only [exec, execBpush, execBput] at h
    split at h <;> cases h
    · exact le_rfl
    · exact length_le_append ..
  | bpushv =>
    simp only [exec, execBpushv] at h
    split at h <;> cases h
    · exact length_le_append ..
    · exact le_rfl
  | bwr =>
    simp only [exec, execBwr] at h
    split at h
    · cases h
      exact le_rfl
    · split at h <;> cases h
      · exact le_rfl
      · exact length_le_setContainer fun _ => (List.length_set ..).ge
  | _ => exact (congrArg (fun containers => (containers[c]).length) (exec_containers rfl h)).ge

/-- Settles O22. -/
theorem bclrEmptiesContainer : Obligations.BclrEmptiesContainer := by
  constructor
  · intro i s t c h hlt
    by_contra hi
    exact absurd hlt (Nat.not_lt.mpr (length_le_of_exec h hi))
  · exact fun b s => ⟨rfl, fun hb => failsWith_badOperand s (container?_isSome_eq_false hb),
      fun c hb => answer_of_store (exec_bclr hb)⟩

end Sys2Proof.Machine
end

section
/-! Proofs of the statements of 41_prng.md, part one: the words that seeding and a regeneration of MT19937 make (R132,
R133). -/

namespace Sys2Proof.Machine

/-! ## Seeding -/

/-- The recurrence as R132 writes it: the sum and the product of naturals, taken modulo `2 ^ 32`. -/
theorem mtSeedNext_eq (a : Word) (i : Nat) :
    mtSeedNext a i = BitVec.ofNat 32 (1812433253 * (a ^^^ (a >>> 30)).toNat + i) := by
  rw [BitVec.ofNat_add, BitVec.ofNat_mul, BitVec.ofNat_toNat, BitVec.setWidth_eq]
  rfl

/-- Of the words from index `i` on, each follows the one before it by the recurrence. -/
theorem mtSeedWords_succ {len j : Nat} (i : Nat) (last : Word) (hj : j + 1 < len) :
    ∃ a, (mtSeedWords len i last)[j]? = some a ∧
      (mtSeedWords len i last)[j + 1]? = some (mtSeedNext a (i + j + 1)) := by
  induction len generalizing i j last with
  | zero => omega
  | succ len ih =>
    simp only [mtSeedWords, List.getElem?_cons_succ]
    cases j with
    | zero =>
      obtain ⟨len, rfl⟩ : ∃ n, len = n + 1 := ⟨len - 1, by omega⟩
      exact ⟨last, rfl, rfl⟩
    | succ j =>
      rw [show i + (j + 1) + 1 = i + 1 + j + 1 by omega]
      exact ih (i + 1) (mtSeedNext last (i + 1)) (by omega)

theorem getElem?_mtSeed (seed : Word) (i : Nat) :
    (mtSeed seed)[i]? = (mtSeedWords Config.mtWords 0 seed)[i]? := by
  rw [mtSeed, Vector.getElem?_mk, List.getElem?_toArray]

theorem getElem?_mtSeed_zero (seed : Word) : (mtSeed seed)[0]? = some seed := getElem?_mtSeed seed 0

/-- Every word but the first follows the one before it (41_prng.md R132). -/
theorem getElem?_mtSeed_succ (seed : Word) {j : Nat} (hj : j < 623) :
    ∃ a, (mtSeed seed)[j]? = some a ∧ (mtSeed seed)[j + 1]? = some (mtSeedNext a (j + 1)) := by
  simpa only [getElem?_mtSeed, Nat.zero_add] using
    mtSeedWords_succ (len := Config.mtWords) 0 seed (Nat.succ_lt_succ hj)

/-! ## Regeneration -/

section Regeneration
variable (mt : Vector Word Config.mtWords)

theorem getElem?_mod (k : Nat) : mt[k % Config.mtWords]? = some (mtGet mt k) :=
  Vector.getElem?_eq_getElem _

/-- A step of a regeneration writes one word. -/
theorem getElem?_mtTwistTo_succ {k : Nat} (hk : k < 624) (j : Nat) :
    (mtTwistTo mt (k + 1))[j]? =
      if j = k then some (mtTwistWord (mtTwistTo mt k) k) else (mtTwistTo mt k)[j]? := by
  simp only [mtTwistTo, Nat.mod_eq_of_lt hk, Vector.getElem?_set, eq_comm (a := k)]

/-- The words from index `k` on are old when the regeneration comes to index `k`. -/
theorem getElem?_mtTwistTo_of_le {j k : Nat} (hk : k ≤ 624) (hj : k ≤ j) : (mtTwistTo mt k)[j]? = mt[j]? := by
  induction k with
  | zero => rfl
  | succ k ih => rw [getElem?_mtTwistTo_succ mt hk, if_neg (by omega), ih (by omega) (by omega)]

/-- A word once written stays: the words below index `k` are those of any later step. -/
theorem getElem?_mtTwistTo_of_lt {j k n : Nat} (hj : j < k) (hkn : k ≤ n) (hn : n ≤ 624) :
    (mtTwistTo mt n)[j]? = (mtTwistTo mt k)[j]? := by
  induction n, hkn using Nat.le_induction with
  | base => rfl
  | succ n hkn ih => rw [getElem?_mtTwistTo_succ mt hn, if_neg (by omega), ih (by omega)]

/-- The word a regeneration leaves at an index is the one it writes when it comes there. -/
theorem getElem?_mtRegenerate {k : Nat} (hk : k < 624) :
    (mtRegenerate mt)[k]? = some (mtTwistWord (mtTwistTo mt k) k) := by
  rw [mtRegenerate, getElem?_mtTwistTo_of_lt mt k.lt_succ_self hk le_rfl, getElem?_mtTwistTo_succ mt hk, if_pos rfl]

/-- The words a regeneration reads when it comes to index `k`: an old one from `k` on, a new one where the index has
wrapped around below `k`. -/
theorem some_mtGet_mtTwistTo {j k : Nat} (hk : k < 624) (hj : k ≤ j) (hwrap : j < 624 + k) :
    some (mtGet (mtTwistTo mt k) j) = if j < 624 then mt[j]? else (mtRegenerate mt)[j - 624]? := by
  rw [← getElem?_mod]
  split
  next h => rw [Nat.mod_eq_of_lt h, getElem?_mtTwistTo_of_le mt hk.le hj]
  next h =>
    have hmod : j % Config.mtWords = j - 624 := by
      rw [Nat.mod_eq_sub_mod (Nat.not_lt.mp h), Nat.mod_eq_of_lt (by omega)]
    rw [hmod, mtRegenerate, getElem?_mtTwistTo_of_lt mt (by omega) hk.le le_rfl]

end Regeneration

/-- Bit 0 of the mixed word is that of its lower part. -/
theorem getLsbD_zero_mix (cur nxt : Word) : ((cur &&& mtUpper) ||| (nxt &&& mtLower)).getLsbD 0 = nxt.getLsbD 0 := by
  simp [mtUpper, mtLower]

/-- Settles O18, from the words that the step at index `k` reads at `k`, `k + 1` and `k + 397`. -/
theorem regenerationIsInPlace : Obligations.RegenerationIsInPlace := by
  intro mt k hk
  refine ⟨mtGet (mtTwistTo mt k) k, mtGet (mtTwistTo mt k) (k + 1), mtGet (mtTwistTo mt k) (k + mtMiddle),
    ?_, ?_, ?_, ?_⟩
  · rw [some_mtGet_mtTwistTo mt hk le_rfl (by omega), if_pos hk]
  · rw [some_mtGet_mtTwistTo mt hk (by omega) (by omega)]
    split
    next h => rw [if_pos (by omega)]
    next h => rw [if_neg (by omega), show k + 1 - 624 = 0 by omega]
  · rw [mtMiddle, some_mtGet_mtTwistTo mt hk (by omega) (by omega)]
    split
    next h => rw [if_pos (by omega)]
    next h => rw [if_neg (by omega), show k + 397 - 624 = k - 227 by omega]
  · rw [getElem?_mtRegenerate mt hk, mtTwistWord, getLsbD_zero_mix]
    rfl

end Sys2Proof.Machine
end

section
/-! Proofs of the statements of 41_prng.md, part two: PSEED, PNEXT and PDRAWS (R137 to R139), and the commands that
draw (R135). -/

namespace Sys2Proof.Machine

/-! ## The commands of the source -/

/-- Settles O17. -/
theorem pseedStartsTheStream : Obligations.PseedStartsTheStream := by
  intro seed s
  refine ⟨rfl, ({ s with prng := Prng.seed seed } : State).respond false 0, rfl, responds_respond s false 0 _ rfl,
    rfl, rfl, rfl, rfl, getElem?_mtSeed_zero seed, fun i h1 h623 => ?_⟩
  obtain ⟨j, rfl⟩ : ∃ j, i = j + 1 := ⟨i - 1, by omega⟩
  obtain ⟨a, ha, hnext⟩ := getElem?_mtSeed_succ seed h623
  exact ⟨a, ha, mtSeedNext_eq a (j + 1) ▸ hnext⟩

/-- What `mt_output()` answers: the tempered word at `MTI`, of the words regenerated first where `MTI` is 624
(41_prng.md R134). -/
theorem mtOutput_eq (mt : Vector Word Config.mtWords) (mti : Fin (Config.mtWords + 1)) :
    ∃ i : Fin Config.mtWords, i.val = (if mti.val = 624 then 0 else mti.val) ∧
      mtOutput mt mti = mtTake (if mti.val = 624 then mtRegenerate mt else mt) i := by
  by_cases h : mti.val = 624
  · exact ⟨⟨0, by decide⟩, (if_pos h).symm, by rw [mtOutput, dif_neg (Nat.not_lt.mpr h.ge), if_pos h]⟩
  · have hlt : mti.val < 624 := Nat.lt_of_le_of_ne mti.is_le h
    exact ⟨⟨mti.val, hlt⟩, (if_neg h).symm, by rw [mtOutput, dif_pos hlt, if_neg h]⟩

theorem exec_pnext {s : State} (hs : s.prng.seeded = true) :
    exec .pnext s = .next ({ s with prng := s.prng.draw.2 }.respond false s.prng.draw.1) := by
  simp only [exec, execPnext, hs, Bool.not_true, Bool.false_eq_true, if_false]

theorem exec_pnext_unseeded {s : State} (hs : s.prng.seeded = false) :
    exec .pnext s = .next (s.raise .notSeeded) := by
  simp only [exec, execPnext, hs, Bool.not_false, if_true]

/-- Settles O19. -/
theorem pnextAnswersNextOutput : Obligations.PnextAnswersNextOutput := by
  refine ⟨rfl, fun s => ⟨fun hs => ?_, fun hs => failsWith_of_raise (exec_pnext_unseeded hs) (by decide)⟩⟩
  obtain ⟨i, hi, hout⟩ := mtOutput_eq s.prng.mt s.prng.mti
  have hmti : s.prng.draw.2.mti.val = i.val + 1 := congrArg (fun o => o.2.2.val) hout
  have hmt : s.prng.draw.2.mt = if s.prng.mti.val = 624 then mtRegenerate s.prng.mt else s.prng.mt :=
    congrArg (fun o => o.2.1) hout
  have hword : s.prng.draw.2.mt[s.prng.draw.2.mti.val - 1]? = some (s.prng.draw.2.mt.get i) := by
    rw [hmti, Nat.add_sub_cancel]
    exact Vector.getElem?_eq_getElem i.isLt
  have hdata : s.prng.draw.1 = mtTemper (s.prng.draw.2.mt.get i) := by
    rw [hmt]
    exact congrArg Prod.fst hout
  exact ⟨_, _, _, _, _, _, exec_pnext hs, responds_respond s false _ _ rfl, rfl, hs, rfl, hmt, hi ▸ hmti, hword,
    rfl, rfl, rfl, hdata⟩

/-- Settles O20. -/
theorem pdrawsReadsCount : Obligations.PdrawsReadsCount :=
  ⟨rfl, fun _ => answer_of_respond rfl⟩

/-! ## The commands that draw -/

/-- Every candidate spends two draws (42_sampler.md R160). -/
theorem candidate_draws {G : Generator} (width height : Component) (g : Growth G) :
    (g.candidate width height).prng.draws = g.prng.draws + 2 := by
  simp only [Growth.candidate]
  split <;> simp only [draw_draws, BitVec.add_assoc] <;> rfl

theorem after_draws {G : Generator} (width height : Component) (g : Growth G) (k : Nat) :
    (g.after width height k).prng.draws = g.prng.draws + BitVec.ofNat 32 (2 * k) := by
  induction k with
  | zero => exact (BitVec.add_zero _).symm
  | succ k ih =>
    rw [Growth.after, Function.iterate_succ_apply', candidate_draws, ← Growth.after, ih, Nat.mul_succ,
      BitVec.ofNat_add, BitVec.add_assoc]
    rfl

/-- `DRAWS` of the second state is that of the first and an even number of draws. -/
def DrawsInPairs (s t : State) : Prop := ∃ k : Nat, t.prng.draws = s.prng.draws + BitVec.ofNat 32 (2 * k)

theorem drawsInPairs_of_eq {s t : State} (h : t.prng = s.prng) : DrawsInPairs s t :=
  ⟨0, h ▸ (BitVec.add_zero _).symm⟩

theorem growTo_drawsInPairs {s t : State} {k : Fin Config.ns} {target : Nat} (h : s.growTo k target = .next t) :
    DrawsInPairs s t := by
  obtain ⟨-, rfl⟩ | ⟨-, -, rfl⟩ | ⟨-, -, g, hg, rfl⟩ := growTo_next s t k target h
  · exact drawsInPairs_of_eq rfl
  · exact drawsInPairs_of_eq rfl
  · obtain ⟨n, -, rfl, -⟩ := growLoop_eq_some _ _ _ _ _ _ hg
    exact ⟨n, after_draws ..⟩

theorem append_prng {P : Parameters} (s : State P) (c : Fin P.nb) (bits : List Bool) :
    (s.append c bits).prng = s.prng := by
  obtain ⟨-, e⟩ | ⟨-, e⟩ := append_cases s c bits <;> rw [e] <;> rfl

/-- The commands that write the source. -/
def writesSource : Instr → Bool
  | .srst | .pseed _ | .pnext | .sgen _ _ | .sext _ _ => true
  | _ => false

/-- Every other command leaves it. -/
theorem exec_prng {i : Instr} {s t : State} (hi : writesSource i = false) (h : exec i s = .next t) :
    t.prng = s.prng := by
  cases i with
  | srst | pseed | pnext | sgen | sext => cases hi
  | rdesr | clresr | pdraws => cases h; rfl
  | bpush | bpushv | bput =>
    simp only [exec, execBpush, execBpushv, execBput] at h
    split at h <;> cases h <;> simp only [append_prng, raise_prng]
  | bclr | brd | bwr | bsize | bempty | btoint | bfromint | brdbyte | beq | sinit | sfind | scopy | ssize | sbegin
  | snext =>
    simp only [exec, execBclr, execBrd, execBwr, execBsize, execBempty, execBtoint, execBfromint, execBrdbyte, execBeq,
      execSinit, execSfind, execScopy, execSsize, execSbegin, execSnext] at h
    repeat' split at h
    all_goals cases h <;> rfl

/-- Settles O21. -/
theorem drawsCountCandidatesInPairs : Obligations.DrawsCountCandidatesInPairs := by
  intro i s t h
  cases i with
  | srst | pseed => cases h; rfl
  | pnext =>
    cases hs : s.prng.seeded
    · cases (exec_pnext_unseeded hs).symm.trans h
      exact (BitVec.add_zero _).symm
    · cases (exec_pnext hs).symm.trans h
      rfl
  | sgen | sext =>
    change DrawsInPairs s t
    simp only [exec, execSgen, execSext] at h
    split at h
    · cases h
      exact drawsInPairs_of_eq rfl
    · obtain rfl | ⟨-, h⟩ := check_next h
      · exact drawsInPairs_of_eq rfl
      · obtain rfl | ⟨-, h⟩ := check_next h
        · exact drawsInPairs_of_eq rfl
        · exact growTo_drawsInPairs h
  | _ => exact congrArg Prng.draws (exec_prng rfl h)

end Sys2Proof.Machine
end

section
/-! Proofs of the statements of 42_sampler.md, part one: membership, insertion and the traversal of a tree (R152, R158,
R170, R171). -/

namespace Sys2Proof.Machine

/-! ## Membership (R152) -/

theorem coord_lt_irrefl (c : Coord) : ¬ c.lt c = true := by
  rw [Coord.lt_iff_pack]
  exact Nat.lt_irrefl _

theorem coord_lt_asymm {a b : Coord} (h : a.lt b = true) : ¬ b.lt a = true :=
  fun h' => coord_lt_irrefl a (coord_lt_trans h h')

theorem ne_of_coord_lt {a b : Coord} (h : a.lt b = true) : a ≠ b :=
  fun e => coord_lt_irrefl b (e ▸ h)

/-- The four parts of the search order at a node. -/
theorem searchTree_node {l r : CoordTree} {k : Coord} :
    searchTree (.node l k r) = true ↔
      (∀ c ∈ preorder l, c.lt k = true) ∧ (∀ c ∈ preorder r, k.lt c = true) ∧ searchTree l = true ∧
        searchTree r = true := by
  simp only [searchTree, Bool.and_eq_true, List.all_eq_true, and_assoc]

theorem mem_preorder_node {l r : CoordTree} {k c : Coord} :
    c ∈ preorder (.node l k r) ↔ c = k ∨ c ∈ preorder l ∨ c ∈ preorder r := by
  rw [preorder, List.mem_cons, List.mem_append]

/-- On a search tree the side that `find` leaves out does not hold the coordinate. -/
theorem find_iff_mem {t : CoordTree} (c : Coord) (h : searchTree t = true) : find t c = true ↔ c ∈ preorder t := by
  induction t with
  | nil => simp [find, preorder]
  | node l k r ihl ihr =>
    obtain ⟨hlk, hkr, hl, hr⟩ := searchTree_node.mp h
    rw [find, mem_preorder_node]
    split
    next e => simp [e]
    next hne =>
      split
      next hlt =>
        have hright : c ∉ preorder r := fun hc => coord_lt_asymm hlt (hkr c hc)
        simp [ihl hl, hne, hright]
      next hnot =>
        have hleft : c ∉ preorder l := fun hc => hnot (hlk c hc)
        simp [ihr hr, hne, hleft]

/-- Settles O36. -/
theorem findDecidesMembership : Obligations.FindDecidesMembership :=
  ⟨fun _ => rfl, fun _ _ _ _ => rfl, fun _ c h => find_iff_mem c h⟩

/-! ## Insertion (R156, R158) -/

/-- Insertion goes the way of `find`, and grows the tree where `find` ends at `Nil`. It needs no search order. -/
theorem ins_grew_eq_not_find (t : CoordTree) (c : Coord) : (ins t c).2 = !find t c := by
  induction t with
  | nil => rfl
  | node l k r ihl ihr =>
    rw [ins, find]
    split
    next => rfl
    next =>
      split
      next =>
        rw [← ihl]
        split <;> rename_i e <;> rw [e]
      next =>
        rw [← ihr]
        split <;> rename_i e <;> rw [e]

theorem ins_of_not_grew {t : CoordTree} {c : Coord} (h : (ins t c).2 = false) : (ins t c).1 = t := by
  cases t with
  | nil => cases h
  | node l k r =>
    obtain e | ⟨-, -, e⟩ | ⟨-, -, e⟩ := ins_node_cases l k r c
    · rw [e]
    · rw [e] at h
      cases h
    · rw [e] at h
      cases h

theorem ins_grew_iff {t : CoordTree} (c : Coord) (h : searchTree t = true) : (ins t c).2 = true ↔ c ∉ preorder t := by
  rw [ins_grew_eq_not_find, Bool.not_eq_true', ← Bool.not_eq_true, find_iff_mem c h]

/-- The members after an insertion: where the tree does not grow, the coordinate is one of them. -/
theorem mem_preorder_ins {t : CoordTree} {c d : Coord} (h : searchTree t = true) :
    d ∈ preorder (ins t c).1 ↔ d ∈ preorder t ∨ d = c := by
  cases hg : (ins t c).2
  · have hc : c ∈ preorder t := not_not.mp fun hc => absurd ((ins_grew_iff c h).mpr hc) (by simp [hg])
    rw [ins_of_not_grew hg, or_iff_left_of_imp]
    rintro rfl
    exact hc
  · rw [mem_preorder_ins_of_grew hg, or_comm]

/-- Settles O38: what holds of every search tree, and the five insertions of R158 run. -/
theorem insertKeepsAvlSearchTree : Obligations.InsertKeepsAvlSearchTree :=
  ⟨fun _ c hs hb => ⟨searchTree_ins c hs, (balanced_ins c hb).1, fun _ => mem_preorder_ins hs, ins_grew_iff c hs,
    ins_of_not_grew⟩, by decide⟩

/-! ## The traversal (R170) -/

/-- The increasing in-order sequence lists no coordinate twice, and pre-order lists the same ones. -/
theorem nodup_preorder {t : CoordTree} (h : searchTree t = true) : (preorder t).Nodup :=
  (inorder_perm_preorder t).nodup_iff.mp (((searchTree_iff_increasing t).mp h).imp ne_of_coord_lt)

/-- Settles O39. -/
theorem traversalHasNoDuplicate : Obligations.TraversalHasNoDuplicate :=
  fun _ h => nodup_preorder h

/-! ## The navigation form (R171) -/

/-- The keys still to be visited once the subtree below a path has been visited whole: the right subtree of each node
that the path leaves to the left. -/
def keysAbove : List Turn → List Coord
  | [] => []
  | .left _ r :: path => preorder r ++ keysAbove path
  | .right _ _ :: path => keysAbove path

/-- The keys that a walk meets from a position on: the node's, its subtrees' and those above it. -/
def keysFrom : Option Position → List Coord
  | none => []
  | some p => p.key :: (preorder p.left ++ preorder p.right ++ keysAbove p.path)

/-- The climb skips no key. -/
theorem keysFrom_climb (c : CoordTree) (path : List Turn) : keysFrom (climb c path) = keysAbove path := by
  induction path generalizing c with
  | nil => rfl
  | cons turn path ih =>
    cases turn with
    | left k r =>
      cases r with
      | nil => exact ih _
      | node => rfl
    | right l k => exact ih _

/-- One visit takes the first of the keys that remain. -/
theorem keysFrom_next (p : Position) :
    keysFrom p.next = preorder p.left ++ preorder p.right ++ keysAbove p.path := by
  obtain ⟨left, key, right, path⟩ := p
  cases left with
  | node => simp [Position.next, keysFrom, keysAbove, preorder]
  | nil =>
    cases right with
    | node => simp [Position.next, keysFrom, keysAbove, preorder]
    | nil => exact keysFrom_climb _ path

theorem walk_eq_take (n : Nat) (p : Option Position) : walk n p = (keysFrom p).take n := by
  induction n generalizing p with
  | zero => rfl
  | succ n ih =>
    cases p with
    | none => rfl
    | some p => rw [walk, ih, keysFrom_next, keysFrom, List.take_succ_cons]

theorem keysFrom_firstPosition (t : CoordTree) : keysFrom (firstPosition t) = preorder t := by
  cases t with
  | nil => rfl
  | node l k r => simp [firstPosition, keysFrom, keysAbove, preorder]

/-- Settles O40: a walk takes the keys from the root on, which are the pre-order sequence. -/
theorem navigationVisitsPreorder : Obligations.NavigationVisitsPreorder := by
  intro t n hn
  rw [walk_eq_take, keysFrom_firstPosition, List.take_of_length_le hn]

end Sys2Proof.Machine
end

section
/-! Proofs of the statements of 42_sampler.md, part two: the rejection loop (R160), and that its fuel is enough wherever
it ends (70_reset_and_hazards.md R252). -/

namespace Sys2Proof.Machine

/-! ## One candidate -/

/-- The coordinate a candidate draws: `x` first, then `y` (42_sampler.md R160). -/
def Growth.drawn {G : Generator} (width height : Component) (g : Growth G) : Coord :=
  ⟨reduceDraw g.prng.draw.1 width, reduceDraw g.prng.draw.2.draw.1 height⟩

section Candidate
variable {G : Generator} {width height : Component} {g : Growth G}

theorem candidate_of_grew (h : (ins g.tree (g.drawn width height)).2 = true) :
    g.candidate width height =
      ⟨g.prng.draw.2.draw.2, (ins g.tree (g.drawn width height)).1, g.count + 1⟩ := by
  rw [Growth.drawn] at *
  simp only [Growth.candidate]
  split
  next e => rw [e]
  next e => rw [e] at h; cases h

theorem candidate_of_not_grew (h : (ins g.tree (g.drawn width height)).2 = false) :
    g.candidate width height = { g with prng := g.prng.draw.2.draw.2 } := by
  rw [Growth.drawn] at *
  simp only [Growth.candidate]
  split
  next e => rw [e] at h; cases h
  next => rfl

/-- A draw reduced modulo a side is the component with that remainder. -/
theorem reduceDraw_eq {v : Word} {side c : Component} (h : c.toNat = v.toNat % side.toNat) : reduceDraw v side = c := by
  rw [reduceDraw, ← h, BitVec.ofNat_toNat, BitVec.setWidth_eq]

theorem preorder_ins_perm {t : CoordTree} {c : Coord} (h : (ins t c).2 = true) :
    (preorder (ins t c).1).Perm (c :: preorder t) :=
  (inorder_perm_preorder _).symm.trans ((inorder_ins_of_grew h).trans ((inorder_perm_preorder t).cons c))

end Candidate

/-- Settles O41. -/
theorem candidateSpendsTwoDraws : Obligations.CandidateSpendsTwoDraws := by
  intro G width height g o1 o2 p1 p2 c hs _ _ h1 h2 hx hy
  have hdrawn : g.drawn width height = c := by
    rw [Growth.drawn, h1, h2, reduceDraw_eq hx, reduceDraw_eq hy]
  have hsource : g.prng.draw.2.draw.2 = p2 := by rw [h1, h2]
  constructor
  · intro hc
    have hnot : (ins g.tree c).2 = false := by rw [ins_grew_eq_not_find, (find_iff_mem c hs).mpr hc, Bool.not_true]
    rw [candidate_of_not_grew (hdrawn ▸ hnot), hsource]
  · intro hc
    have hgrew : (ins g.tree c).2 = true := (ins_grew_iff c hs).mpr hc
    rw [candidate_of_grew (hdrawn ▸ hgrew), hsource, hdrawn]
    exact ⟨rfl, rfl, preorder_ins_perm hgrew⟩

/-! ## Candidates in a row -/

section After
variable {G : Generator} (width height : Component) (g : Growth G)

theorem after_succ (k : Nat) : g.after width height (k + 1) = (g.after width height k).candidate width height :=
  Function.iterate_succ_apply' ..

theorem after_add (m n : Nat) : g.after width height (m + n) = (g.after width height m).after width height n := by
  rw [Nat.add_comm]
  exact Function.iterate_add_apply ..

theorem candidate_seeded : (g.candidate width height).prng.seeded = g.prng.seeded := by
  simp only [Growth.candidate]
  split <;> rfl

theorem after_seeded (k : Nat) : (g.after width height k).prng.seeded = g.prng.seeded := by
  induction k with
  | zero => rfl
  | succ k ih => rw [after_succ, candidate_seeded, ih]

/-- The count never falls, and where it has stayed the tree has stayed: every candidate was a member. -/
theorem after_count_le_and_tree (k : Nat) :
    g.count ≤ (g.after width height k).count ∧
      ((g.after width height k).count = g.count → (g.after width height k).tree = g.tree) := by
  induction k with
  | zero => exact ⟨le_rfl, fun _ => rfl⟩
  | succ k ih =>
    obtain ⟨hle, htree⟩ := ih
    rw [after_succ]
    obtain ⟨hcount, e⟩ | hcount := candidate_count width height (g.after width height k)
    · exact ⟨hcount ▸ hle, fun h => e.trans (htree (hcount.symm.trans h))⟩
    · exact ⟨by omega, fun h => by omega⟩

theorem after_count_mono {m n : Nat} (h : m ≤ n) : (g.after width height m).count ≤ (g.after width height n).count := by
  obtain ⟨d, rfl⟩ := Nat.exists_eq_add_of_le h
  rw [after_add]
  exact (after_count_le_and_tree width height _ d).1

/-- The least number of candidates that reaches a target reaches it exactly, unless none was needed. -/
theorem after_count_of_least {target k : Nat} (hk : target ≤ (g.after width height k).count)
    (hmin : ∀ i, i < k → (g.after width height i).count < target) :
    (g.after width height k).count = max g.count target := by
  cases k with
  | zero => exact (max_eq_left hk).symm
  | succ k =>
    have hstart : g.count < target := hmin 0 k.succ_pos
    have hlast : (g.after width height k).count < target := hmin k k.lt_succ_self
    rw [after_succ] at *
    obtain ⟨hcount, -⟩ | hcount := candidate_count width height (g.after width height k) <;> omega

/-- With fuel for every candidate and one last test the loop answers. -/
theorem growLoop_of_least {target k fuel : Nat} (hfuel : k < fuel) (hk : target ≤ (g.after width height k).count)
    (hmin : ∀ i, i < k → (g.after width height i).count < target) :
    growLoop width height target fuel g = some (g.after width height k) := by
  induction k generalizing g fuel with
  | zero =>
    obtain ⟨fuel, rfl⟩ : ∃ n, fuel = n + 1 := ⟨fuel - 1, by omega⟩
    have hge : target ≤ g.count := hk
    rw [growLoop, if_neg (Nat.not_lt.mpr hge)]
    rfl
  | succ k ih =>
    obtain ⟨fuel, rfl⟩ : ∃ n, fuel = n + 1 := ⟨fuel - 1, by omega⟩
    have hlt : g.count < target := hmin 0 k.succ_pos
    rw [growLoop, if_pos hlt]
    exact ih (g.candidate width height) (by omega) hk fun i hi => hmin (i + 1) (by omega)

/-- Where the loop ends there is a least number of candidates that ends it. -/
theorem exists_least_of_ends {target : Nat} (h : g.ends width height target) :
    ∃ k, target ≤ (g.after width height k).count ∧ ∀ i, i < k → (g.after width height i).count < target := by
  classical
  exact ⟨Nat.find h, Nat.find_spec h, fun i hi => Nat.lt_of_not_le (Nat.find_min h hi)⟩

end After

/-! ## The fuel is enough

A candidate reads the words and the index of the source, and the tree: not `SEEDED`, not `DRAWS`. A source that comes
back to earlier words and index over the same tree starts a cycle of rejections, so a loop that ends meets each
combination of words, index and count once. -/

/-- The states of two loops agree in all that later candidates depend on, and in the count. -/
def Growth.Alike {G : Generator} (g h : Growth G) : Prop :=
  g.prng.mt = h.prng.mt ∧ g.prng.mti = h.prng.mti ∧ g.tree = h.tree ∧ g.count = h.count

section Cycle
variable {G : Generator} {width height : Component} {g h : Growth G}

theorem candidate_alike (e : g.Alike h) : (g.candidate width height).Alike (h.candidate width height) := by
  obtain ⟨hmt, hmti, htree, hcount⟩ := e
  have hdrawn : g.drawn width height = h.drawn width height := by
    simp only [Growth.drawn, draw_output, draw_mt, draw_mti, hmt, hmti]
  have hsource : g.prng.draw.2.draw.2.mt = h.prng.draw.2.draw.2.mt ∧
      g.prng.draw.2.draw.2.mti = h.prng.draw.2.draw.2.mti := by
    simp only [draw_mt, draw_mti, hmt, hmti, and_self]
  cases hg : (ins g.tree (g.drawn width height)).2
  · rw [candidate_of_not_grew hg, candidate_of_not_grew (by rwa [← htree, ← hdrawn])]
    exact ⟨hsource.1, hsource.2, htree, hcount⟩
  · rw [candidate_of_grew hg, candidate_of_grew (by rwa [← htree, ← hdrawn]), htree, hdrawn, hcount]
    exact ⟨hsource.1, hsource.2, rfl, rfl⟩

theorem after_alike (e : g.Alike h) (k : Nat) : (g.after width height k).Alike (h.after width height k) := by
  induction k with
  | zero => exact e
  | succ k ih =>
    rw [after_succ, after_succ]
    exact candidate_alike ih

/-- A loop that comes back to its start after `p` candidates comes back however often it goes round. -/
theorem after_cycle_alike {p : Nat} (e : (g.after width height p).Alike g) (m : Nat) :
    (g.after width height (m * p)).Alike g := by
  induction m with
  | zero => rw [Nat.zero_mul]; exact ⟨rfl, rfl, rfl, rfl⟩
  | succ m ih =>
    rw [Nat.succ_mul, Nat.add_comm, after_add]
    obtain ⟨h1, h2, h3, h4⟩ := after_alike (width := width) (height := height) e (m * p)
    obtain ⟨h1', h2', h3', h4'⟩ := ih
    exact ⟨h1.trans h1', h2.trans h2', h3.trans h3', h4.trans h4'⟩

/-- Before the target is reached no two states of the loop have the same words, index and count: the count would have
stayed between them, so the tree too, and the loop would be in a cycle. -/
theorem eq_of_same_source {target k i j : Nat} (hk : target ≤ (g.after width height k).count)
    (hi : (g.after width height i).count < target) (hij : i ≤ j)
    (hmt : (g.after width height j).prng.mt = (g.after width height i).prng.mt)
    (hmti : (g.after width height j).prng.mti = (g.after width height i).prng.mti)
    (hcount : (g.after width height j).count = (g.after width height i).count) : i = j := by
  obtain ⟨p, rfl⟩ := Nat.exists_eq_add_of_le hij
  rw [after_add] at hmt hmti hcount
  have htree := (after_count_le_and_tree width height (g.after width height i) p).2 hcount
  obtain ⟨-, -, -, hround⟩ := after_cycle_alike ⟨hmt, hmti, htree, hcount⟩ k
  rw [← after_add] at hround
  by_contra hne
  have hp : 1 ≤ p := by omega
  have hfar : k ≤ i + k * p := (Nat.le_mul_of_pos_right k hp).trans (Nat.le_add_left ..)
  have := after_count_mono width height g hfar
  omega

end Cycle

/-- What tells the states of a loop apart before it reaches its target: the words, the index and the count. -/
def Growth.mark {G : Generator} {target : Nat} (g : Growth G) (h : g.count < target) :
    (Fin G.words → Fin (2 ^ Config.xlen)) × Fin (G.words + 1) × Fin target :=
  (fun i => (g.prng.mt.get i).toFin, g.prng.mti, ⟨g.count, h⟩)

theorem mark_inj {G : Generator} {target : Nat} {g h : Growth G} {hg : g.count < target} {hh : h.count < target}
    (e : g.mark hg = h.mark hh) : g.prng.mt = h.prng.mt ∧ g.prng.mti = h.prng.mti ∧ g.count = h.count := by
  simp only [Growth.mark, Prod.mk.injEq, Fin.mk.injEq] at e
  obtain ⟨hmt, hmti, hcount⟩ := e
  refine ⟨Vector.ext fun i hi => ?_, hmti, hcount⟩
  exact BitVec.eq_of_toFin_eq (congrFun hmt ⟨i, hi⟩)

/-- The pigeonhole: there are no more marks than states of the algorithm times members to add. -/
theorem least_lt_growFuel {P : Parameters} {width height : Component} {target k : Nat} {g : Growth P.prng}
    (hcap : target ≤ P.ncap) (hk : target ≤ (g.after width height k).count)
    (hmin : ∀ i, i < k → (g.after width height i).count < target) : k < growFuel P := by
  have hinj : Function.Injective fun i : Fin k => (g.after width height i.val).mark (hmin i.val i.isLt) := by
    intro i j e
    obtain ⟨hmt, hmti, hcount⟩ := mark_inj e
    obtain hij | hji := Nat.le_total i.val j.val
    · exact Fin.ext (eq_of_same_source hk (hmin i i.isLt) hij hmt.symm hmti.symm hcount.symm)
    · exact Fin.ext (eq_of_same_source hk (hmin j j.isLt) hji hmt hmti hcount).symm
  have hcard : k ≤ (2 ^ Config.xlen) ^ P.prng.words * ((P.prng.words + 1) * target) := by
    simpa only [Fintype.card_prod, Fintype.card_fun, Fintype.card_fin] using Fintype.card_le_of_injective _ hinj
  rw [growFuel, prngStates, pow_mul, Nat.lt_succ_iff]
  calc k
    _ ≤ (2 ^ Config.xlen) ^ P.prng.words * ((P.prng.words + 1) * target) := hcard
    _ = target * ((2 ^ Config.xlen) ^ P.prng.words * (P.prng.words + 1)) := by rw [← mul_assoc, mul_comm]
    _ ≤ P.ncap * ((2 ^ Config.xlen) ^ P.prng.words * (P.prng.words + 1)) := Nat.mul_le_mul_right _ hcap

/-- With the model's fuel the loop answers its state after the least number of candidates that ends it. -/
theorem growLoop_growFuel {P : Parameters} {width height : Component} {target k : Nat} {g : Growth P.prng}
    (hcap : target ≤ P.ncap) (hk : target ≤ (g.after width height k).count)
    (hmin : ∀ i, i < k → (g.after width height i).count < target) :
    growLoop width height target (growFuel P) g = some (g.after width height k) :=
  growLoop_of_least width height g (least_lt_growFuel hcap hk hmin) hk hmin

end Sys2Proof.Machine
end

section
/-! Proofs of the statements of 42_sampler.md, part three: what each command does where its checks of R150 hold and
where they do not, and the statements of one command. -/

namespace Sys2Proof.Machine

/-! ## Sampler operands -/

theorem sampler?_of_eq {u : BitVec 4} {k : Fin Config.ns} (hu : u.toNat = k.val) : sampler? Config.ksbc u = some k :=
  (sampler?_eq_some Config.ksbc u k).mpr hu

theorem sampler?_isSome_of_eq {u : BitVec 4} {k : Fin Config.ns} (hu : u.toNat = k.val) :
    (sampler? Config.ksbc u).isSome = true := by
  rw [sampler?_of_eq hu, Option.isSome_some]

theorem sampler?_isSome_eq_false {u : BitVec 4} (h : u.toNat ≥ Config.ns) :
    (sampler? Config.ksbc u).isSome = false := by
  rw [(sampler?_eq_none _ u).mpr h, Option.isSome_none]

theorem exists_of_sampler?_isSome {u : BitVec 4} (h : (sampler? Config.ksbc u).isSome = true) :
    ∃ k : Fin Config.ns, u.toNat = k.val :=
  (Option.isSome_iff_exists.mp h).imp fun k => (sampler?_eq_some Config.ksbc u k).mp

theorem onSampler_eq {u : BitVec 4} {k : Fin Config.ns} (hu : u.toNat = k.val) (s : State) (f : Sampler → Bool) :
    onSampler u s f = f (s.sampler k) := by
  rw [onSampler, sampler?_of_eq hu]

theorem onSampler_iff {u : BitVec 4} {s : State} {f : Sampler → Bool} :
    onSampler u s f = true ↔ ∃ k : Fin Config.ns, u.toNat = k.val ∧ f (s.sampler k) = true := by
  constructor
  · intro h
    cases hu : sampler? Config.ksbc u with
    | none => simp [onSampler, hu] at h
    | some k =>
      have hu := (sampler?_eq_some _ u k).mp hu
      exact ⟨k, hu, onSampler_eq hu s f ▸ h⟩
  · rintro ⟨k, hu, h⟩
    rwa [onSampler_eq hu]

theorem domainOk_iff {width height : Component} : domainOk width height = true ↔ width ≠ 0 ∧ height ≠ 0 := by
  simp only [domainOk, Bool.and_eq_true, bne_iff_ne]

/-! ## Growth (R159, R160) -/

section GrowTo
variable {s : State} {k : Fin Config.ns} {target : Nat}

theorem growTo_of_area (h : target > (s.sampler k).width.toNat * (s.sampler k).height.toNat) :
    s.growTo k target = .next (s.raise .payloadTooLarge) :=
  if_pos h

theorem growTo_of_capacity (harea : target ≤ (s.sampler k).width.toNat * (s.sampler k).height.toNat)
    (h : target > Config.ncap) : s.growTo k target = .next (s.raise .nodeFull) := by
  rw [State.growTo, if_neg (Nat.not_lt.mpr harea), if_pos h]

variable (harea : target ≤ (s.sampler k).width.toNat * (s.sampler k).height.toNat) (hcap : target ≤ Config.ncap)
include harea hcap

/-- The growth runs the least number of candidates that reaches its target. -/
theorem growTo_of_least {j : Nat}
    (hj : target ≤ ((s.growth k).after (s.sampler k).width (s.sampler k).height j).count)
    (hmin : ∀ i, i < j → ((s.growth k).after (s.sampler k).width (s.sampler k).height i).count < target) :
    s.growTo k target = .next (s.grown k ((s.growth k).after (s.sampler k).width (s.sampler k).height j)) := by
  rw [State.growTo, if_neg (Nat.not_lt.mpr harea), if_neg (Nat.not_lt.mpr hcap), growLoop_growFuel hcap hj hmin]

/-- A growth within its limits that answers has run the least number of candidates that reaches its target. -/
theorem exists_least_of_growTo {t : State} (h : s.growTo k target = .next t) :
    ∃ j, t = s.grown k ((s.growth k).after (s.sampler k).width (s.sampler k).height j) ∧
      target ≤ ((s.growth k).after (s.sampler k).width (s.sampler k).height j).count ∧
      ∀ i, i < j → ((s.growth k).after (s.sampler k).width (s.sampler k).height i).count < target := by
  obtain ⟨h, -⟩ | ⟨-, h, -⟩ | ⟨-, -, g, hg, rfl⟩ := growTo_next s t k target h
  · exact absurd h (Nat.not_lt.mpr harea)
  · exact absurd h (Nat.not_lt.mpr hcap)
  · obtain ⟨j, -, rfl, hj, hmin⟩ := growLoop_eq_some _ _ _ _ _ _ hg
    exact ⟨j, rfl, hj, hmin⟩

theorem growTo_answers_iff_ends :
    (s.growth k).ends (s.sampler k).width (s.sampler k).height target ↔ ∃ t, s.growTo k target = .next t := by
  constructor
  · intro h
    obtain ⟨j, hj, hmin⟩ := exists_least_of_ends _ _ _ h
    exact ⟨_, growTo_of_least harea hcap hj hmin⟩
  · rintro ⟨t, h⟩
    obtain ⟨j, -, hj, -⟩ := exists_least_of_growTo harea hcap h
    exact ⟨j, hj⟩

end GrowTo

theorem growth_grown (s : State) (k : Fin Config.ns) (g : Growth Config.mt19937) : (s.grown k g).growth k = g := by
  rw [State.growth, grown_sampler_same, grown_prng]

/-! ## Checks that hold: one equation for each command -/

section Commands
variable {u : BitVec 4} {k : Fin Config.ns} {s : State} (hu : u.toNat = k.val)
include hu

theorem exec_sinit {width height : Component} (hw : width ≠ 0) (hh : height ≠ 0) :
    exec (.sinit u width height) s =
      .next ((s.setSampler k ⟨true, width, height, .nil, 0, .invalid⟩).respond false 0) := by
  simp only [exec, execSinit, sampler?_of_eq hu, domainOk_iff.mpr ⟨hw, hh⟩]

theorem exec_sext_eq_sgen {more n : Word} (h : n.toNat = (s.sampler k).count + more.toNat) :
    exec (.sext u more) s = exec (.sgen u n) s := by
  simp only [exec, execSext, execSgen, sampler?_of_eq hu, h]

variable (hv : (s.sampler k).valid = true)
include hv

section Seeded
variable (hs : s.prng.seeded = true)
include hs

theorem exec_sgen (n : Word) : exec (.sgen u n) s = s.growTo k n.toNat := by
  simp only [exec, execSgen, sampler?_of_eq hu, hs, hv, Bool.not_true, Bool.false_eq_true, if_false]

theorem exec_sext (more : Word) : exec (.sext u more) s = s.growTo k ((s.sampler k).count + more.toNat) := by
  simp only [exec, execSext, sampler?_of_eq hu, hs, hv, Bool.not_true, Bool.false_eq_true, if_false]

end Seeded

theorem exec_sfind (x y : Component) :
    exec (.sfind u x y) s = .next (s.respond (find (s.sampler k).tree ⟨x, y⟩) 0) := by
  simp only [exec, execSfind, sampler?_of_eq hu, hv, Bool.not_true, Bool.false_eq_true, if_false]

theorem exec_scopy {d : BitVec 4} {i : Fin Config.ns} (hd : d.toNat = i.val) :
    exec (.scopy d u) s = .next ((s.setSampler i { s.sampler k with cursor := .invalid }).respond false 0) := by
  simp only [exec, execScopy, sampler?_of_eq hu, sampler?_of_eq hd, hv, Bool.not_true, Bool.false_eq_true, if_false]

theorem exec_ssize : exec (.ssize u) s = .next (s.respond false (BitVec.ofNat 32 (s.sampler k).count)) := by
  simp only [exec, execSsize, sampler?_of_eq hu, hv, Bool.not_true, Bool.false_eq_true, if_false]

theorem exec_sbegin :
    exec (.sbegin u) s = .next ((s.setSampler k { s.sampler k with cursor := .position 0 }).respond
      ((s.sampler k).count == 0) 0) := by
  simp only [exec, execSbegin, sampler?_of_eq hu, hv, Bool.not_true, Bool.false_eq_true, if_false]

theorem exec_snext_end (h : (s.sampler k).cursor = .position (s.sampler k).count) :
    exec (.snext u) s = .next (s.respond true 0) := by
  simp only [exec, execSnext, sampler?_of_eq hu, hv, h, Bool.not_true, Bool.false_eq_true, if_false, if_true]

theorem exec_snext_element {n : Nat} {c : Coord} (h : (s.sampler k).cursor = .position n)
    (hn : n ≠ (s.sampler k).count) (hc : (preorder (s.sampler k).tree)[n]? = some c) :
    exec (.snext u) s =
      .next ((s.setSampler k { s.sampler k with cursor := .position (n + 1) }).respond false c.pack) := by
  simp only [exec, execSnext, sampler?_of_eq hu, hv, h, hc, Bool.not_true, Bool.false_eq_true, if_false, if_neg hn]

end Commands

/-! ## Checks that fail: one equation for each cause -/

section Causes
variable {i : Instr} {s : State}

theorem exec_of_seedMissing (hwf : i.wellFormed = true) (h : seedMissing i s = true) :
    exec i s = .next (s.raise .notSeeded) := by
  cases i with
  | pnext => exact exec_pnext_unseeded ((Bool.not_eq_true' _).mp h)
  | sgen | sext =>
    obtain ⟨k, hu⟩ := exists_of_sampler?_isSome hwf
    rw [seedMissing] at h
    simp only [exec, execSgen, execSext, sampler?_of_eq hu, if_pos h]
  | _ => cases h

theorem exec_of_samplerMissing (hwf : i.wellFormed = true) (hseed : seedMissing i s = false)
    (h : samplerMissing i s = true) : exec i s = .next (s.raise .notInit) := by
  cases i with
  | sgen | sext =>
    rw [samplerMissing] at h
    rw [seedMissing] at hseed
    obtain ⟨k, hu, hv⟩ := onSampler_iff.mp h
    simp only [exec, execSgen, execSext, sampler?_of_eq hu, hseed, if_pos hv, Bool.false_eq_true, if_false]
  | scopy d u =>
    rw [samplerMissing] at h
    obtain ⟨k, hu, hv⟩ := onSampler_iff.mp h
    obtain ⟨j, hd⟩ := exists_of_sampler?_isSome (Bool.and_eq_true_iff.mp hwf).1
    simp only [exec, execScopy, sampler?_of_eq hu, sampler?_of_eq hd, if_pos hv]
  | sfind | ssize | sbegin | snext =>
    rw [samplerMissing] at h
    obtain ⟨k, hu, hv⟩ := onSampler_iff.mp h
    simp only [exec, execSfind, execSsize, execSbegin, execSnext, sampler?_of_eq hu, if_pos hv]
  | _ => cases h

theorem exec_of_cursorClosed (hmissing : samplerMissing i s = false) (h : cursorClosed i s = true) :
    exec i s = .next (s.raise .cursorInvalid) := by
  cases i with
  | snext u =>
    rw [cursorClosed] at h
    obtain ⟨k, hu, hc⟩ := onSampler_iff.mp h
    rw [samplerMissing, onSampler_eq hu] at hmissing
    simp only [exec, execSnext, sampler?_of_eq hu, hmissing, beq_iff_eq.mp hc, Bool.false_eq_true, if_false]
  | _ => cases h

section Growth
variable (hseed : seedMissing i s = false) (hmissing : samplerMissing i s = false)
include hseed hmissing

theorem exec_of_domainExceeded (h : domainExceeded i s = true) : exec i s = .next (s.raise .payloadTooLarge) := by
  cases i with
  | sgen | sext =>
    rw [domainExceeded] at h
    obtain ⟨k, hu, h⟩ := onSampler_iff.mp h
    rw [seedMissing] at hseed
    rw [samplerMissing, onSampler_eq hu] at hmissing
    simp only [exec, execSgen, execSext, sampler?_of_eq hu, hseed, hmissing, Bool.false_eq_true, if_false]
    exact growTo_of_area (of_decide_eq_true h)
  | _ => cases h

theorem exec_of_nodesExceeded (hdomain : domainExceeded i s = false) (h : nodesExceeded i s = true) :
    exec i s = .next (s.raise .nodeFull) := by
  cases i with
  | sgen | sext =>
    rw [nodesExceeded] at h
    obtain ⟨k, hu, h⟩ := onSampler_iff.mp h
    rw [seedMissing] at hseed
    rw [samplerMissing, onSampler_eq hu] at hmissing
    rw [domainExceeded, onSampler_eq hu, decide_eq_false_iff_not, not_lt] at hdomain
    simp only [exec, execSgen, execSext, sampler?_of_eq hu, hseed, hmissing, Bool.false_eq_true, if_false]
    exact growTo_of_capacity hdomain (of_decide_eq_true h)
  | _ => cases h

end Growth

theorem exec_of_capacityExceeded (hwf : i.wellFormed = true) (h : capacityExceeded i s = true) :
    exec i s = .next (s.raise .containerFull) := by
  cases i with
  | bpush | bput =>
    rw [capacityExceeded] at h
    obtain ⟨c, hb, h⟩ := onContainer_iff.mp h
    simp only [exec, execBpush, execBput, hb]
    exact congrArg _ (append_of_full (of_decide_eq_true h))
  | bpushv b n v =>
    rw [capacityExceeded] at h
    obtain ⟨c, hb, h⟩ := onContainer_iff.mp h
    simp only [exec, execBpushv, hb, (Bool.and_eq_true_iff.mp hwf).2]
    exact congrArg _ (append_of_full (by rw [bitsOf_length]; exact of_decide_eq_true h))
  | _ => cases h

end Causes

/-- The codes whose cause holds, in the order given. -/
def heldCodes (causes : List (Nat × Bool)) : List Nat :=
  causes.filterMap fun cause => if cause.2 then some cause.1 else none

theorem errorCodes_eq_heldCodes (i : Instr) (s : State) :
    errorCodes i s = heldCodes [(2, !i.wellFormed), (3, seedMissing i s), (4, samplerMissing i s),
      (5, cursorClosed i s), (6, domainExceeded i s), (7, nodesExceeded i s), (8, indexOutside i s),
      (9, capacityExceeded i s)] := rfl

/-- The first code held is that of the first cause, or that cause does not hold. -/
theorem heldCodes_eq_cons {n code : Nat} {b : Bool} {causes : List (Nat × Bool)} {more : List Nat}
    (h : heldCodes ((n, b) :: causes) = code :: more) :
    b = true ∧ n = code ∨ b = false ∧ heldCodes causes = code :: more := by
  cases b
  · exact .inr ⟨rfl, h⟩
  · exact .inl ⟨rfl, (List.cons.inj h).1⟩

theorem heldCodes_cons_eq_nil {n : Nat} {b : Bool} {causes : List (Nat × Bool)} :
    heldCodes ((n, b) :: causes) = [] ↔ b = false ∧ heldCodes causes = [] := by
  cases b <;> simp [heldCodes]

/-- A command for which some cause holds ends with the error of the lowest (60_exceptions.md R211, R215): its checks
stand in the order of the codes. -/
theorem exec_of_errorCodes {i : Instr} {s : State} {code : Nat} {more : List Nat} (h : errorCodes i s = code :: more) :
    ∃ st : Status, st ≠ .ok ∧ st.code = code ∧ exec i s = .next (s.raise st) := by
  rw [errorCodes_eq_heldCodes] at h
  obtain ⟨hwf, rfl⟩ | ⟨hwf, h⟩ := heldCodes_eq_cons h
  · exact ⟨.badOperand, by decide, rfl, exec_of_not_wellFormed s ((Bool.not_eq_true' _).mp hwf)⟩
  rw [Bool.not_eq_false'] at hwf
  obtain ⟨hseed, rfl⟩ | ⟨hseed, h⟩ := heldCodes_eq_cons h
  · exact ⟨.notSeeded, by decide, rfl, exec_of_seedMissing hwf hseed⟩
  obtain ⟨hmissing, rfl⟩ | ⟨hmissing, h⟩ := heldCodes_eq_cons h
  · exact ⟨.notInit, by decide, rfl, exec_of_samplerMissing hwf hseed hmissing⟩
  obtain ⟨hclosed, rfl⟩ | ⟨-, h⟩ := heldCodes_eq_cons h
  · exact ⟨.cursorInvalid, by decide, rfl, exec_of_cursorClosed hmissing hclosed⟩
  obtain ⟨hdomain, rfl⟩ | ⟨hdomain, h⟩ := heldCodes_eq_cons h
  · exact ⟨.payloadTooLarge, by decide, rfl, exec_of_domainExceeded hseed hmissing hdomain⟩
  obtain ⟨hnodes, rfl⟩ | ⟨-, h⟩ := heldCodes_eq_cons h
  · exact ⟨.nodeFull, by decide, rfl, exec_of_nodesExceeded hseed hmissing hdomain hnodes⟩
  obtain ⟨hindex, rfl⟩ | ⟨-, h⟩ := heldCodes_eq_cons h
  · exact ⟨.indexRange, by decide, rfl, exec_of_indexOutside hindex⟩
  obtain ⟨hfull, rfl⟩ | ⟨-, h⟩ := heldCodes_eq_cons h
  · exact ⟨.containerFull, by decide, rfl, exec_of_capacityExceeded hwf hfull⟩
  cases h

/-! ## Answers -/

section Answers
variable {i : Instr} {s : State} {k : Fin Config.ns}

/-- A command that writes a sampler. -/
theorem answer_of_write {g : Sampler} {flag : Bool} {data : Word}
    (h : exec i s = .next ((s.setSampler k g).respond flag data)) :
    ∃ t, exec i s = .next t ∧ Responds s t 0 flag data ∧ OnlySampler s t k ∧ t.sampler k = g :=
  ⟨_, h, responds_respond s flag data _ rfl, ⟨fun v hv => setSampler_sampler_other s k g v hv, rfl⟩,
    setSampler_sampler_same ..⟩

theorem onlySamplerAndSource_grown (s : State) (k : Fin Config.ns) (g : Growth Config.mt19937) :
    OnlySamplerAndSource s (s.grown k g) k :=
  ⟨fun v hv => grown_sampler_other s k g v hv, rfl⟩

/-- What SGEN and SEXT say of a growth to a target once unit, seeding and validity are checked, with the count it
leaves: the capacity checks, and the loop (42_sampler.md R159 to R162). -/
def GrowsTo (i : Instr) (s : State) (k : Fin Config.ns) (target count : Nat) : Prop :=
  (target > (s.sampler k).width.toNat * (s.sampler k).height.toNat → FailsWith i s 6) ∧
  (target ≤ (s.sampler k).width.toNat * (s.sampler k).height.toNat → target > Config.ncap → FailsWith i s 7) ∧
  (target ≤ (s.sampler k).width.toNat * (s.sampler k).height.toNat → target ≤ Config.ncap →
    ((s.growth k).ends (s.sampler k).width (s.sampler k).height target ↔ ∃ t, exec i s = .next t) ∧
    ∀ j, target ≤ ((s.growth k).after (s.sampler k).width (s.sampler k).height j).count →
      (∀ i, i < j → ((s.growth k).after (s.sampler k).width (s.sampler k).height i).count < target) →
      ∃ t, exec i s = .next t ∧ Responds s t 0 false 0 ∧ OnlySamplerAndSource s t k ∧
        t.growth k = (s.growth k).after (s.sampler k).width (s.sampler k).height j ∧
        (t.sampler k).count = count ∧ (t.sampler k).valid = true ∧
        (t.sampler k).width = (s.sampler k).width ∧ (t.sampler k).height = (s.sampler k).height ∧
        (t.sampler k).cursor = .invalid)

theorem growsTo_of_exec {target : Nat} (h : exec i s = s.growTo k target) (hv : (s.sampler k).valid = true) :
    GrowsTo i s k target (max (s.sampler k).count target) := by
  refine ⟨fun harea => ?_, fun harea hcap => ?_, fun harea hcap => ⟨?_, fun j hj hmin => ?_⟩⟩
  · exact failsWith_of_raise (h.trans (growTo_of_area harea)) (by decide)
  · exact failsWith_of_raise (h.trans (growTo_of_capacity harea hcap)) (by decide)
  · rw [h]
    exact growTo_answers_iff_ends harea hcap
  · refine ⟨_, h.trans (growTo_of_least harea hcap hj hmin), responds_respond s false 0 _ rfl,
      onlySamplerAndSource_grown .., growth_grown .., ?_⟩
    rw [grown_sampler_same]
    exact ⟨after_count_of_least _ _ _ hj hmin, hv, rfl, rfl, rfl⟩

theorem failsWith_notSeeded (hwf : i.wellFormed = true) (h : seedMissing i s = true) : FailsWith i s 3 :=
  failsWith_of_raise (exec_of_seedMissing hwf h) (by decide)

theorem failsWith_notInit (hwf : i.wellFormed = true) (hseed : seedMissing i s = false)
    (h : samplerMissing i s = true) : FailsWith i s 4 :=
  failsWith_of_raise (exec_of_samplerMissing hwf hseed h) (by decide)

/-- The cause of NOT_INIT, for a unit that exists. -/
theorem onSampler_not_valid {u : BitVec 4} (hu : u.toNat = k.val) (hv : (s.sampler k).valid = false) :
    onSampler u s (fun g => !g.valid) = true := by
  rw [onSampler_eq hu, hv, Bool.not_false]

end Answers

/-! ## SINIT (R151) -/

theorem sinit_wellFormed_eq_false {u : BitVec 4} {width height : Component}
    (h : u.toNat ≥ Config.ns ∨ width = 0 ∨ height = 0) : (Instr.sinit u width height).wellFormed = false := by
  refine Bool.eq_false_iff.mpr fun hwf => ?_
  obtain ⟨hunit, hdomain⟩ := Bool.and_eq_true_iff.mp hwf
  obtain ⟨hw, hh⟩ := domainOk_iff.mp hdomain
  obtain ⟨k, hk⟩ := exists_of_sampler?_isSome hunit
  have hlt : u.toNat < Config.ns := hk ▸ k.isLt
  exact h.elim (fun hge => absurd hlt (Nat.not_lt.mpr hge)) (fun hzero => hzero.elim hw hh)

/-- Settles O43. -/
theorem sinitCreatesEmptySampler : Obligations.SinitCreatesEmptySampler := by
  refine fun u width height s => ⟨rfl, fun h => failsWith_badOperand s (sinit_wellFormed_eq_false h),
    fun k hu hw hh => ?_⟩
  obtain ⟨t, ht, hresp, honly, e⟩ := answer_of_write (exec_sinit (s := s) hu hw hh)
  refine ⟨t, ht, hresp, honly, ?_⟩
  rw [e]
  exact ⟨rfl, rfl, rfl, rfl, rfl, rfl⟩

/-! ## SGEN and SEXT (R159 to R162) -/

/-- Settles O44. -/
theorem sgenGrowsToTarget : Obligations.SgenGrowsToTarget := by
  refine fun u n s => ⟨rfl, fun hu => failsWith_badOperand s (sampler?_isSome_eq_false hu), fun k hu => ⟨fun hs => ?_,
    fun hs hv => ?_, fun hs hv target e => ?_⟩⟩
  · exact failsWith_notSeeded (sampler?_isSome_of_eq hu) (by rw [seedMissing, hs, Bool.not_false])
  · exact failsWith_notInit (sampler?_isSome_of_eq hu) (by rw [seedMissing, hs, Bool.not_true])
      (onSampler_not_valid hu hv)
  · subst e
    exact growsTo_of_exec (exec_sgen hu hv hs n) hv

/-- Settles O45. -/
theorem sextGrowsByCount : Obligations.SextGrowsByCount := by
  refine fun u more s => ⟨rfl, fun hu => failsWith_badOperand s (sampler?_isSome_eq_false hu), fun k hu =>
    ⟨fun n hn => exec_sext_eq_sgen hu hn, fun hs => ?_, fun hs hv => ?_, fun hs hv target e => ?_⟩⟩
  · exact failsWith_notSeeded (sampler?_isSome_of_eq hu) (by rw [seedMissing, hs, Bool.not_false])
  · exact failsWith_notInit (sampler?_isSome_of_eq hu) (by rw [seedMissing, hs, Bool.not_true])
      (onSampler_not_valid hu hv)
  · subst e
    have hmax : max (s.sampler k).count ((s.sampler k).count + more.toNat) = (s.sampler k).count + more.toNat :=
      max_eq_right (Nat.le_add_right ..)
    have h := growsTo_of_exec (exec_sext hu hv hs more) hv
    rwa [hmax] at h

/-- A growth that starts at its target runs no candidate. -/
theorem growTo_of_reached {s : State} {k : Fin Config.ns} {target : Nat}
    (harea : (s.sampler k).count ≤ (s.sampler k).width.toNat * (s.sampler k).height.toNat)
    (hcap : (s.sampler k).count ≤ Config.ncap) (h : target ≤ (s.sampler k).count) :
    s.growTo k target =
      .next ((s.setSampler k { s.sampler k with cursor := .invalid }).respond false 0) :=
  growTo_of_least (j := 0) (h.trans harea) (h.trans hcap) h (fun _ hi => absurd hi (Nat.not_lt_zero _))

/-- Settles O46: the invariant has COUNT within the area and the capacity, so no check fails. -/
theorem growthByNothingClosesCursor : Obligations.GrowthByNothingClosesCursor := by
  intro u k n s hu hs hwf hv hn
  obtain ⟨-, hsam, -, -⟩ := hwf
  obtain ⟨-, -, hform, -⟩ := (Sampler.wf_iff _).mp (hsam k) hv
  have grown {target : Nat} := growTo_of_reached (target := target) hform.area hform.capacity
  have hgen := (exec_sgen hu hv hs n).trans (grown hn)
  have hext := (exec_sext hu hv hs 0).trans (grown (Nat.add_zero _).le)
  obtain ⟨t, ht, hresp, honly, e⟩ := answer_of_write hgen
  exact ⟨t, t, ht, hext.trans (hgen.symm.trans ht), hresp, honly, e, rfl⟩

/-! ## SFIND, SSIZE and SCOPY (R163 to R165) -/

/-- Settles O48: a member lies in the domain. -/
theorem sfindTestsMembership : Obligations.SfindTestsMembership := by
  refine fun u x y s => ⟨rfl, fun hu => failsWith_badOperand s (sampler?_isSome_eq_false hu), fun k hu =>
    ⟨fun hv => failsWith_notInit (sampler?_isSome_of_eq hu) rfl (onSampler_not_valid hu hv), fun hv hwf => ?_⟩⟩
  obtain ⟨-, -, hform, -⟩ := (Sampler.wf_iff _).mp hwf hv
  have hfind := find_iff_mem ⟨x, y⟩ hform.search
  obtain ⟨t, ht, hresp, honly⟩ := answer_of_respond (exec_sfind hu hv x y)
  refine ⟨t, _, ht, hresp, honly, hfind, fun hout => Bool.eq_false_iff.mpr fun h => ?_⟩
  have hin := hform.domain _ (hfind.mp h)
  simp only [inDomain, Bool.and_eq_true, decide_eq_true_eq] at hin
  omega

/-- Settles O49: COUNT is within the capacity, so DATA holds it. -/
theorem ssizeReadsCount : Obligations.SsizeReadsCount := by
  refine fun u s => ⟨rfl, fun hu => failsWith_badOperand s (sampler?_isSome_eq_false hu), fun k hu =>
    ⟨fun hv => failsWith_notInit (sampler?_isSome_of_eq hu) rfl (onSampler_not_valid hu hv), fun hv hwf => ?_⟩⟩
  obtain ⟨-, -, hform, -⟩ := (Sampler.wf_iff _).mp hwf hv
  have hdata : (BitVec.ofNat 32 (s.sampler k).count).toNat = (s.sampler k).count :=
    BitVec.toNat_ofNat .. ▸ Nat.mod_eq_of_lt (hform.capacity.trans_lt (by decide))
  obtain ⟨t, ht, hresp, honly⟩ := answer_of_respond (exec_ssize hu hv)
  exact ⟨t, _, ht, hresp, honly, hdata, hdata.trans hform.counted⟩

theorem scopy_wellFormed_eq_false {d u : BitVec 4} (h : d.toNat ≥ Config.ns ∨ u.toNat ≥ Config.ns) :
    (Instr.scopy d u).wellFormed = false := by
  rw [Instr.wellFormed, Instr.wellFormedAt, Bool.and_eq_false_iff]
  exact h.imp sampler?_isSome_eq_false sampler?_isSome_eq_false

theorem scopy_wellFormed {d u : BitVec 4} {i j : Fin Config.ns} (hd : d.toNat = i.val) (hu : u.toNat = j.val) :
    (Instr.scopy d u).wellFormed = true :=
  Bool.and_eq_true_iff.mpr ⟨sampler?_isSome_of_eq hd, sampler?_isSome_of_eq hu⟩

/-- Settles O50. -/
theorem scopyCopiesStructure : Obligations.ScopyCopiesStructure := by
  refine fun d u s => ⟨rfl, fun h => failsWith_badOperand s (scopy_wellFormed_eq_false h), fun i j hd hu =>
    ⟨fun hv => failsWith_notInit (scopy_wellFormed hd hu) rfl (onSampler_not_valid hu hv), fun hv => ?_⟩⟩
  obtain ⟨t, ht, hresp, honly, e⟩ := answer_of_write (exec_scopy hu hv hd)
  refine ⟨t, ht, hresp, honly, ?_⟩
  rw [e]
  exact ⟨hv, rfl, rfl, rfl, rfl, rfl⟩

/-! ## SBEGIN and SNEXT (R167, R168) -/

/-- Settles O51. -/
theorem sbeginOpensTraversal : Obligations.SbeginOpensTraversal :=
  fun _ s => ⟨rfl, fun hu => failsWith_badOperand s (sampler?_isSome_eq_false hu), fun _ hu =>
    ⟨fun hv => failsWith_notInit (sampler?_isSome_of_eq hu) rfl (onSampler_not_valid hu hv),
      fun hv => answer_of_write (exec_sbegin hu hv)⟩⟩

/-- Settles O52. -/
theorem snextReturnsElement : Obligations.SnextReturnsElement := by
  refine fun u s => ⟨rfl, fun hu => failsWith_badOperand s (sampler?_isSome_eq_false hu), fun k hu =>
    ⟨fun hv => failsWith_notInit (sampler?_isSome_of_eq hu) rfl (onSampler_not_valid hu hv), fun hv => ⟨fun hc => ?_,
      fun hc => answer_of_respond (exec_snext_end hu hv hc), fun n c hc hn hget => ?_⟩⟩⟩
  · have hmissing : samplerMissing (.snext u) s = false := by rw [samplerMissing, onSampler_eq hu, hv, Bool.not_true]
    have hclosed : cursorClosed (.snext u) s = true := by rw [cursorClosed, onSampler_eq hu, hc, beq_self_eq_true]
    exact failsWith_of_raise (exec_of_cursorClosed hmissing hclosed) (by decide)
  · obtain ⟨t, ht, hresp, honly, e⟩ := answer_of_write (exec_snext_element hu hv hc hn hget)
    exact ⟨t, _, ht, hresp, honly, e, c.pack_high, c.pack_low⟩

end Sys2Proof.Machine
end

section
/-! Proofs of the statements of 42_sampler.md, part four: commands one after another (R162, R166, R168). -/

namespace Sys2Proof.Machine

/-! ## Two extensions (R162) -/

/-- An extension within the limits that answers has run the least number of candidates that adds its operand. -/
theorem exec_sext_next {u : BitVec 4} {k : Fin Config.ns} {more : Word} {s t : State} (hu : u.toNat = k.val)
    (hv : (s.sampler k).valid = true) (hs : s.prng.seeded = true)
    (harea : (s.sampler k).count + more.toNat ≤ (s.sampler k).width.toNat * (s.sampler k).height.toNat)
    (hcap : (s.sampler k).count + more.toNat ≤ Config.ncap) (h : exec (.sext u more) s = .next t) :
    ∃ j, t = s.grown k ((s.growth k).after (s.sampler k).width (s.sampler k).height j) ∧
      (t.sampler k).count = (s.sampler k).count + more.toNat ∧
      ∀ i, i < j → ((s.growth k).after (s.sampler k).width (s.sampler k).height i).count <
        (s.sampler k).count + more.toNat := by
  obtain ⟨j, rfl, hj, hmin⟩ := exists_least_of_growTo harea hcap ((exec_sext hu hv hs more).symm.trans h)
  refine ⟨j, rfl, ?_, hmin⟩
  rw [grown_sampler_same]
  exact (after_count_of_least _ _ _ hj hmin).trans (max_eq_right (Nat.le_add_right ..))

/-- Growing a sampler twice leaves what the second growth leaves, but for the responses. -/
theorem grown_grown (s : State) (k : Fin Config.ns) (g g' : Growth Config.mt19937) :
    { (s.grown k g).grown k g' with responses := [] } = { s.grown k g' with responses := [] } := by
  simp [State.grown, State.setSampler, State.respond, State.sampler]

/-- Settles O47: the candidates of the second extension follow those of the first, and together they are the least
number that reaches the sum. -/
theorem extensionsCompose : Obligations.ExtensionsCompose := by
  intro u k p q s t t' hu hs hv hpq harea hcap ht ht'
  obtain ⟨m, rfl, hm, hmin⟩ := exec_sext_next hu hv hs (by omega) (by omega) ht
  obtain ⟨n, rfl, hn, hmin'⟩ := exec_sext_next hu (by rwa [grown_sampler_same])
    (by rwa [grown_prng, after_seeded]) (by rwa [hm, grown_sampler_same]) (by rwa [hm]) ht'
  simp only [growth_grown, grown_sampler_same, ← after_add] at hm hn hmin' ⊢
  have hsum : (s.sampler k).count + (p + q).toNat = (s.sampler k).count + p.toNat + q.toNat := by
    rw [BitVec.toNat_add_of_lt hpq, Nat.add_assoc]
  refine ⟨_, ?_, (grown_grown ..).symm⟩
  rw [exec_sext hu hv hs, hsum]
  refine growTo_of_least harea hcap (by omega) fun i hi => ?_
  obtain hfirst | hsecond := Nat.lt_or_ge i m
  · exact (hmin i hfirst).trans_le (Nat.le_add_right ..)
  · obtain ⟨d, rfl⟩ := Nat.exists_eq_add_of_le hsecond
    have := hmin' d (by omega)
    omega

/-! ## A full traversal (R168, R170) -/

/-- The response with DATA and nothing else. -/
theorem responseWord_ok_data (data : Word) : responseWord .ok false data = data.setWidth 64 := by
  refine BitVec.eq_of_getLsbD_eq fun i hi => ?_
  rw [responseWord_bit, BitVec.getLsbD_setWidth, decide_eq_true hi, Bool.true_and]
  split
  next => rfl
  next h =>
    rw [BitVec.getLsbD_of_ge data i (Nat.le_of_not_lt h)]
    simp [Status.code]

/-- SNEXT to the end of sampler `g`, from an open cursor: one element each and then the end. -/
theorem execAll_snext {u : BitVec 4} {k : Fin Config.ns} {g : Sampler} (hu : u.toNat = k.val) (hv : g.valid = true)
    (hcount : g.count = (preorder g.tree).length) (m : Nat) {n : Nat} {s : State}
    (hs : s.sampler k = { g with cursor := .position n }) (hm : n + m = g.count) :
    ∃ t, execAll (List.replicate (m + 1) (.snext u)) s = .next t ∧
      t.responses = s.responses ++ ((preorder g.tree).drop n).map (fun c => c.pack.setWidth 64) ++
        [0x0000000100000000] ∧
      t.sampler k = { g with cursor := .position g.count } := by
  have hvalid : (s.sampler k).valid = true := by rw [hs]; exact hv
  induction m generalizing n s with
  | zero =>
    obtain rfl : n = g.count := hm
    refine ⟨_, execAll_cons_of_next (exec_snext_end hu hvalid (by rw [hs])), ?_, hs⟩
    rw [hcount, List.drop_length, List.map_nil, List.append_nil]
    rfl
  | succ m ih =>
    have hlt : n < (preorder g.tree).length := by omega
    have hnot : n ≠ (s.sampler k).count := by rw [hs]; exact (hcount ▸ hlt).ne
    have hget : (preorder (s.sampler k).tree)[n]? = some (preorder g.tree)[n] := by
      rw [hs]
      exact List.getElem?_eq_getElem hlt
    have ht := exec_snext_element hu hvalid (by rw [hs]) hnot hget
    rw [hs] at ht
    have hmoved : ((s.setSampler k { g with cursor := .position (n + 1) }).respond false
        (preorder g.tree)[n].pack).sampler k = { g with cursor := .position (n + 1) } := by
      rw [respond_sampler, setSampler_sampler_same]
    obtain ⟨t', ht', hresp, hsam⟩ := ih hmoved ((Nat.succ_add n m).trans hm) (by rw [hmoved]; exact hv)
    refine ⟨t', (execAll_cons_of_next ht).trans ht', ?_, hsam⟩
    rw [hresp, respond_responses, setSampler_responses, responseWord_ok_data, List.drop_eq_getElem_cons hlt,
      List.map_cons, List.append_assoc s.responses, List.singleton_append]

/-- Settles O53. -/
theorem traversalAnswersPreorder : Obligations.TraversalAnswersPreorder := by
  intro u k s hu hv hwf
  obtain ⟨-, -, hform, -⟩ := (Sampler.wf_iff _).mp hwf hv
  obtain ⟨t, ht, hresp, hsam⟩ := execAll_snext hu hv hform.counted (s.sampler k).count
    (s := (s.setSampler k { s.sampler k with cursor := .position 0 }).respond ((s.sampler k).count == 0) 0) (n := 0)
    (by rw [respond_sampler, setSampler_sampler_same]) (Nat.zero_add _)
  refine ⟨t, responseWord .ok ((s.sampler k).count == 0) 0, (execAll_cons_of_next (exec_sbegin hu hv)).trans ht, ?_,
    hsam⟩
  rw [hresp, respond_responses, setSampler_responses, List.drop_zero, List.append_assoc s.responses,
    List.singleton_append]

/-! ## Copy and extend (R166) -/

/-- Of a list without duplicates that holds every member of another, as many are left as it is longer. -/
theorem length_filter_new {old new : List Coord} {member : Coord → Bool} (hmember : ∀ c, member c = true ↔ c ∈ old)
    (hold : old.Nodup) (hnew : new.Nodup) (hsub : ∀ c ∈ old, c ∈ new) :
    old.length + (new.filter fun c => !member c).length = new.length := by
  have hperm : (new.filter member).Perm old := by
    refine (List.perm_ext_iff_of_nodup (hnew.filter _) hold).mpr fun c => ?_
    rw [List.mem_filter, hmember, and_iff_right_of_imp (hsub c)]
  rw [← hperm.length_eq, ← List.length_eq_length_filter_add]

/-- Settles O56: both trees list no coordinate twice, the copy keeps every member, and COUNT grows by `p`. -/
theorem copyAndExtendSplits : Obligations.CopyAndExtendSplits := by
  intro d u i j p s t t' hwf hd hu hij hs hv harea hcap ht ht'
  have hwf' : t'.wf := exec_wf (exec_wf hwf ht) ht'
  obtain ⟨t, hcopied, -, ⟨hother, hrest⟩, hcopy⟩ := answer_of_write (exec_scopy hu hv hd)
  cases hcopied.symm.trans ht
  have hvalid : (t.sampler i).valid = true := by rw [hcopy]; exact hv
  have hseeded : t.prng.seeded = true := by rw [hrest]; exact hs
  obtain ⟨m, hgrown, hcount, -⟩ := exec_sext_next hd hvalid hseeded (by rwa [hcopy]) (by rwa [hcopy]) ht'
  have hkeep : ∀ c ∈ preorder (s.sampler j).tree, c ∈ preorder (t'.sampler i).tree := fun c hc =>
    have ⟨_, _, _, h⟩ := membersOnlyGrow _ t t' i c ht' hvalid (by simp) (by simp) (by simp) (by rwa [hcopy])
    h
  refine ⟨?_, hkeep, ?_⟩
  · rw [hgrown, grown_sampler_other _ _ _ _ hij.symm, hother j hij.symm]
  · have ⟨_, hsam, _, _⟩ := hwf
    have ⟨_, hsam', _, _⟩ := hwf'
    have hvalid' : (t'.sampler i).valid = true := by rw [hgrown, grown_sampler_same]; exact hvalid
    obtain ⟨-, -, hold, -⟩ := (Sampler.wf_iff _).mp (hsam j) hv
    obtain ⟨-, -, hnew, -⟩ := (Sampler.wf_iff _).mp (hsam' i) hvalid'
    have hlen := length_filter_new (fun c => find_iff_mem c hold.search) (nodup_preorder hold.search)
      (nodup_preorder hnew.search) hkeep
    rw [hcopy] at hcount
    rw [← hold.counted, ← hnew.counted, hcount] at hlen
    exact Nat.add_left_cancel hlen

end Sys2Proof.Machine
end

section
/-! Proofs of the statements of 42_sampler.md, part five: which commands move a cursor (R169). -/

namespace Sys2Proof.Machine

/-! ## Commands that write no sampler, and commands that end with an error -/

/-- The commands that write a sampler. -/
def writesSampler : Instr → Bool
  | .srst | .sinit _ _ _ | .sgen _ _ | .sext _ _ | .scopy _ _ | .sbegin _ | .snext _ => true
  | _ => false

theorem append_samplers {P : Parameters} (s : State P) (c : Fin P.nb) (bits : List Bool) :
    (s.append c bits).samplers = s.samplers := by
  obtain ⟨-, e⟩ | ⟨-, e⟩ := append_cases s c bits <;> rw [e] <;> rfl

/-- Every other command leaves them. -/
theorem exec_samplers {i : Instr} {s t : State} (hi : writesSampler i = false) (h : exec i s = .next t) :
    t.samplers = s.samplers := by
  cases i with
  | srst | sinit | sgen | sext | scopy | sbegin | snext => cases hi
  | rdesr | clresr | pseed | pdraws => cases h; rfl
  | bpush | bpushv | bput =>
    simp only [exec, execBpush, execBpushv, execBput] at h
    split at h <;> (cases h; simp only [append_samplers, raise_samplers])
  | pnext | bclr | brd | bwr | bsize | bempty | btoint | bfromint | brdbyte | beq | sfind | ssize =>
    simp only [exec, execPnext, execBclr, execBrd, execBwr, execBsize, execBempty, execBtoint, execBfromint,
      execBrdbyte, execBeq, execSfind, execSsize] at h
    repeat' split at h
    all_goals (cases h; rfl)

theorem exec_samplers_of_error {i : Instr} {s t : State} (he : errorCodes i s ≠ []) (h : exec i s = .next t) :
    t.samplers = s.samplers := by
  obtain ⟨code, more, e⟩ := List.exists_cons_of_ne_nil he
  obtain ⟨st, -, -, hraise⟩ := exec_of_errorCodes e
  cases hraise.symm.trans h
  rfl

theorem cursor_of_samplers {s t : State} (h : t.samplers = s.samplers) (k : Fin Config.ns) :
    (t.sampler k).cursor = (s.sampler k).cursor :=
  congrArg (fun samplers => (samplers[k]).cursor) h

/-- The checks of R150 that hold where no cause of an error does. -/
theorem checks_of_errorCodes_eq_nil {i : Instr} {s : State} (h : errorCodes i s = []) :
    i.wellFormed = true ∧ seedMissing i s = false ∧ samplerMissing i s = false ∧ domainExceeded i s = false ∧
      nodesExceeded i s = false := by
  simp only [errorCodes_eq_heldCodes, heldCodes_cons_eq_nil, Bool.not_eq_false'] at h
  obtain ⟨hwf, hseed, hmissing, -, hdomain, hnodes, -⟩ := h
  exact ⟨hwf, hseed, hmissing, hdomain, hnodes⟩

theorem valid_of_onSampler {u : BitVec 4} {k : Fin Config.ns} {s : State} (hu : u.toNat = k.val)
    (h : onSampler u s (fun g => !g.valid) = false) : (s.sampler k).valid = true := by
  rwa [onSampler_eq hu, Bool.not_eq_false'] at h

/-! ## Commands that close a cursor -/

/-- The cursor of the sampler that `u` names is closed, and no other has moved. -/
def ClosesCursor (u : BitVec 4) (s t : State) : Prop :=
  ∃ k : Fin Config.ns, u.toNat = k.val ∧ (t.sampler k).cursor = .invalid ∧
    ∀ v, v ≠ k → (t.sampler v).cursor = (s.sampler v).cursor

section Closing
variable {u : BitVec 4} {s t : State}

theorem closesCursor_write {k : Fin Config.ns} {g : Sampler} (hu : u.toNat = k.val) (hg : g.cursor = .invalid) :
    ClosesCursor u s ((s.setSampler k g).respond false 0) := by
  refine ⟨k, hu, ?_, fun v hv => ?_⟩
  · rw [respond_sampler, setSampler_sampler_same, hg]
  · rw [respond_sampler, setSampler_sampler_other _ _ _ _ hv]

/-- A growth within its limits that answers. -/
theorem growTo_closesCursor {k : Fin Config.ns} {target : Nat} (hu : u.toNat = k.val)
    (harea : ¬ target > (s.sampler k).width.toNat * (s.sampler k).height.toNat) (hcap : ¬ target > Config.ncap)
    (h : s.growTo k target = .next t) : ClosesCursor u s t := by
  obtain ⟨j, rfl, -⟩ := exists_least_of_growTo (Nat.le_of_not_lt harea) (Nat.le_of_not_lt hcap) h
  exact ⟨k, hu, by rw [grown_sampler_same], fun v hv => by rw [grown_sampler_other _ _ _ _ hv]⟩

theorem sinit_closesCursor {width height : Component} (he : errorCodes (.sinit u width height) s = [])
    (h : exec (.sinit u width height) s = .next t) : ClosesCursor u s t := by
  obtain ⟨hwf, -⟩ := checks_of_errorCodes_eq_nil he
  obtain ⟨hunit, hdomain⟩ := Bool.and_eq_true_iff.mp hwf
  obtain ⟨k, hu⟩ := exists_of_sampler?_isSome hunit
  obtain ⟨hw, hh⟩ := domainOk_iff.mp hdomain
  cases (exec_sinit hu hw hh).symm.trans h
  exact closesCursor_write hu rfl

theorem sgen_closesCursor {n : Word} (he : errorCodes (.sgen u n) s = []) (h : exec (.sgen u n) s = .next t) :
    ClosesCursor u s t := by
  obtain ⟨hwf, hseed, hmissing, hdomain, hnodes⟩ := checks_of_errorCodes_eq_nil he
  obtain ⟨k, hu⟩ := exists_of_sampler?_isSome hwf
  rw [seedMissing, Bool.not_eq_false'] at hseed
  rw [domainExceeded, onSampler_eq hu] at hdomain
  rw [nodesExceeded, onSampler_eq hu] at hnodes
  exact growTo_closesCursor hu (of_decide_eq_false hdomain) (of_decide_eq_false hnodes)
    ((exec_sgen hu (valid_of_onSampler hu hmissing) hseed n).symm.trans h)

theorem sext_closesCursor {more : Word} (he : errorCodes (.sext u more) s = []) (h : exec (.sext u more) s = .next t) :
    ClosesCursor u s t := by
  obtain ⟨hwf, hseed, hmissing, hdomain, hnodes⟩ := checks_of_errorCodes_eq_nil he
  obtain ⟨k, hu⟩ := exists_of_sampler?_isSome hwf
  rw [seedMissing, Bool.not_eq_false'] at hseed
  rw [domainExceeded, onSampler_eq hu] at hdomain
  rw [nodesExceeded, onSampler_eq hu] at hnodes
  exact growTo_closesCursor hu (of_decide_eq_false hdomain) (of_decide_eq_false hnodes)
    ((exec_sext hu (valid_of_onSampler hu hmissing) hseed more).symm.trans h)

theorem scopy_closesCursor {d : BitVec 4} (he : errorCodes (.scopy d u) s = []) (h : exec (.scopy d u) s = .next t) :
    ClosesCursor d s t := by
  obtain ⟨hwf, -, hmissing, -⟩ := checks_of_errorCodes_eq_nil he
  obtain ⟨hdst, hsrc⟩ := Bool.and_eq_true_iff.mp hwf
  obtain ⟨i, hd⟩ := exists_of_sampler?_isSome hdst
  obtain ⟨j, hu⟩ := exists_of_sampler?_isSome hsrc
  cases (exec_scopy hu (valid_of_onSampler hu hmissing) hd).symm.trans h
  exact closesCursor_write hd rfl

/-- Where a command closes the cursor of the sampler it writes when no error is due: an error moves none. -/
theorem cursor_of_closing {i : Instr} (hok : errorCodes i s = [] → exec i s = .next t → ClosesCursor u s t)
    (h : exec i s = .next t) (k : Fin Config.ns) :
    if u.toNat = k.val ∧ errorCodes i s = [] then (t.sampler k).cursor = .invalid
    else (t.sampler k).cursor = (s.sampler k).cursor := by
  by_cases he : errorCodes i s = []
  · obtain ⟨j, hu, hclosed, hother⟩ := hok he h
    split
    next hk =>
      obtain rfl : j = k := Fin.ext (hu.symm.trans hk.1)
      exact hclosed
    next hk => exact hother k fun e => hk ⟨e ▸ hu, he⟩
  · rw [if_neg fun hk => he hk.2]
    exact cursor_of_samplers (exec_samplers_of_error he h) k

end Closing

/-! ## Commands that open or move a cursor -/

/-- No sampler has changed but the one that `u` names, whose cursor is open if it has. -/
def MovesCursor (u : BitVec 4) (s t : State) : Prop :=
  t.samplers = s.samplers ∨ ∃ (k : Fin Config.ns) (n : Nat), u.toNat = k.val ∧ (t.sampler k).cursor = .position n ∧
    ∀ v, v ≠ k → t.sampler v = s.sampler v

section Moving
variable {u : BitVec 4} {s t : State}

theorem movesCursor_write {k : Fin Config.ns} {g : Sampler} {n : Nat} (hu : sampler? Config.ksbc u = some k)
    (hg : g.cursor = .position n) (flag : Bool) (data : Word) :
    MovesCursor u s ((s.setSampler k g).respond flag data) := by
  refine .inr ⟨k, n, (sampler?_eq_some Config.ksbc u k).mp hu, ?_, fun v hv => ?_⟩
  · rw [respond_sampler, setSampler_sampler_same, hg]
  · rw [respond_sampler, setSampler_sampler_other _ _ _ _ hv]

theorem sbegin_movesCursor (h : exec (.sbegin u) s = .next t) : MovesCursor u s t := by
  simp only [exec, execSbegin] at h
  split at h
  · cases h
    exact .inl rfl
  next hu =>
    obtain rfl | ⟨-, h⟩ := check_next h
    · exact .inl rfl
    · cases h
      exact movesCursor_write hu rfl _ _

theorem snext_movesCursor (h : exec (.snext u) s = .next t) : MovesCursor u s t := by
  simp only [exec, execSnext] at h
  split at h
  · cases h
    exact .inl rfl
  next hu =>
    obtain rfl | ⟨-, h⟩ := check_next h
    · exact .inl rfl
    · split at h
      · cases h
        exact .inl rfl
      · split at h
        · cases h
          exact .inl rfl
        · split at h <;> cases h
          exact movesCursor_write hu rfl _ _

/-- What R169 says of the two commands of the traversal. -/
theorem cursor_of_moving {i : Instr} (hmove : MovesCursor u s t) (h : exec i s = .next t) (k : Fin Config.ns) :
    (u.toNat ≠ k.val → (t.sampler k).cursor = (s.sampler k).cursor) ∧
      (errorCodes i s ≠ [] → (t.sampler k).cursor = (s.sampler k).cursor) ∧
      ((t.sampler k).cursor = .invalid → (s.sampler k).cursor = .invalid) := by
  refine ⟨fun hk => ?_, fun he => cursor_of_samplers (exec_samplers_of_error he h) k, fun hc => ?_⟩
  · obtain hsame | ⟨j, n, hu, -, hother⟩ := hmove
    · exact cursor_of_samplers hsame k
    · rw [hother k fun e => hk (e ▸ hu)]
  · obtain hsame | ⟨j, n, -, hopen, hother⟩ := hmove
    · exact (cursor_of_samplers hsame k).symm.trans hc
    · by_cases e : k = j
      · subst e
        cases hopen.symm.trans hc
      · rwa [← hother k e]

end Moving

/-- Settles O54. -/
theorem cursorsCloseOnlyByRule : Obligations.CursorsCloseOnlyByRule := by
  refine ⟨fun i s t k h => ?_, fun s t a rest k hs h => ?_⟩
  · cases i with
    | srst =>
      cases h
      change (s.restart.sampler k).cursor = .invalid
      rw [restart_sampler, restarted_cursor]
    | sinit => exact cursor_of_closing sinit_closesCursor h k
    | sgen => exact cursor_of_closing sgen_closesCursor h k
    | sext => exact cursor_of_closing sext_closesCursor h k
    | scopy => exact cursor_of_closing scopy_closesCursor h k
    | sbegin => exact cursor_of_moving (sbegin_movesCursor h) h k
    | snext => exact cursor_of_moving (snext_movesCursor h) h k
    | _ => exact cursor_of_samplers (exec_samplers rfl h) k
  · rw [step, takeEvent, hs] at h
    cases h
    rw [restart_sampler, restarted_cursor]

end Sys2Proof.Machine
end

section
/-! Proofs of the statements of 60_exceptions.md, part one: idle steps (R230), the system commands (R218 to R220), and
illegal operands (R211 code 2). -/

namespace Sys2Proof.Machine

/-- Settles O6. -/
theorem idleKeepsAllState : Obligations.IdleKeepsAllState := by
  intro s hs
  rw [step, takeEvent, hs]

/-- Settles O10. -/
theorem illegalOperandAnswersTwo : Obligations.IllegalOperandAnswersTwo :=
  fun _ s h => failsWith_badOperand s h

/-- Settles O15: `ESR` is the low half of its zero extension, and the high half is 0. -/
theorem rdesrReadsEsr : Obligations.RdesrReadsEsr := by
  refine ⟨rfl, fun s => ?_⟩
  obtain ⟨t, ht, hresp, honly⟩ := answer_of_respond (i := .rdesr) (s := s) rfl
  have hext : s.esr.setWidth 32 = (0 : BitVec 16) ++ s.esr := BitVec.setWidth_eq_append (by decide)
  refine ⟨t, _, ht, hresp, ?_, ?_, honly⟩
  · rw [hext]
    exact BitVec.extractLsb'_append_eq_right
  · rw [hext]
    exact BitVec.extractLsb'_append_eq_left

/-- Settles O16. -/
theorem clresrClearsEsr : Obligations.ClresrClearsEsr :=
  ⟨rfl, fun s => ⟨_, rfl, responds_respond s false 0 { s with esr := 0 } rfl, rfl, rfl⟩⟩

/-- A restart leaves the elements of 10_state.md R36 at their reset values (60_exceptions.md R220). -/
theorem restart_resetElements (s : State) : ResetElements s.restart :=
  ⟨restart_container s, rfl, rfl, fun u => by rw [restart_sampler]; exact ⟨rfl, rfl⟩, rfl⟩

/-- The state after a restart differs from the one after hardware reset in what is unobservable only: the source is
unseeded in both and no sampler is valid (60_exceptions.md R220). -/
theorem restart_sameVisible_reset (s : State) :
    SameVisible s.restart { State.reset with host := s.host, responses := s.responses } := by
  refine ⟨rfl, rfl, rfl, fun hs => ?_, fun u => ?_, rfl, rfl, rfl⟩
  · simp only [restart_seeded, Bool.false_eq_true] at hs
  · have hreset : (State.sampler { State.reset with host := s.host, responses := s.responses } u).valid = false :=
      congrArg Sampler.valid (reset_sampler u)
    simp only [restart_sampler, restarted_valid, hreset, Bool.false_eq_true, false_implies, and_self]

/-- Settles O14: the response is one that the state after hardware reset could have given as well. -/
theorem srstLeavesResetState : Obligations.SrstLeavesResetState :=
  ⟨rfl, fun s => ⟨s.restart.respond false 0, rfl, responds_respond s false 0 s.restart rfl, restart_resetElements s,
    (restart_sameVisible_reset s).respond false 0⟩⟩

end Sys2Proof.Machine
end

section
/-! Proofs of the statements of 60_exceptions.md, part two: which status a command ends with, and what an error leaves
alone (R211, R215, R216). -/

namespace Sys2Proof.Machine

/-! ## Commands that end with OK -/

/-- An outcome of a command run from `s` that carries no error: if it is a next state, one response with status 0 is
added, and `ESR` is kept or cleared. -/
def EndsOk (s : State) (o : Host.Outcome State Fault Refusal) : Prop :=
  ∀ t, o = .next t → (∃ flag data, Responds s t 0 flag data) ∧ (t.esr = s.esr ∨ t.esr = 0)

section Ok
variable {s : State}

theorem endsOk_respond {a : State} {flag : Bool} {data : Word} (hresp : a.responses = s.responses)
    (hesr : a.esr = s.esr ∨ a.esr = 0) : EndsOk s (.next (a.respond flag data)) := by
  rintro _ ⟨⟩
  exact ⟨⟨flag, data, responds_respond s flag data a hresp⟩, hesr⟩

theorem endsOk_append {c : Fin Config.nb} {bits : List Bool}
    (hfit : (s.container c).length + bits.length ≤ Config.bcap) : EndsOk s (.next (s.append c bits)) :=
  append_of_fits hfit ▸ endsOk_respond rfl (.inl rfl)

/-- A growth within its limits: it answers OK or not at all. -/
theorem endsOk_growTo {k : Fin Config.ns} {target : Nat}
    (harea : target ≤ (s.sampler k).width.toNat * (s.sampler k).height.toNat) (hcap : target ≤ Config.ncap) :
    EndsOk s (s.growTo k target) := by
  intro t h
  obtain ⟨j, rfl, -⟩ := exists_least_of_growTo harea hcap h
  exact endsOk_respond (a := State.setSampler { s with prng := _ } k _) rfl (.inl rfl) _ rfl

/-- SNEXT with an open cursor: it answers OK or, where the cursor is no position of the traversal, not at all (log 9). -/
theorem endsOk_snext {u : BitVec 4} {k : Fin Config.ns} (hu : u.toNat = k.val) (hv : (s.sampler k).valid = true)
    (hopen : (s.sampler k).cursor ≠ .invalid) : EndsOk s (exec (.snext u) s) := by
  simp only [exec, execSnext, sampler?_of_eq hu, hv, Bool.not_true, Bool.false_eq_true, if_false]
  split
  next hc => exact absurd hc hopen
  · split
    · exact endsOk_respond rfl (.inl rfl)
    · split
      · exact endsOk_respond rfl (.inl rfl)
      · rintro _ ⟨⟩

theorem exists_of_container?_isSome {b : BitVec 4} (h : (container? Config.ksbc b).isSome = true) :
    ∃ c : Fin Config.nb, b.toNat = c.val :=
  (Option.isSome_iff_exists.mp h).imp fun c => (container?_eq_some Config.ksbc b c).mp

/-- A command for which no cause of an error holds does not end with one: the causes are all that its checks look at
(60_exceptions.md R211). -/
theorem endsOk_of_errorCodes_eq_nil {i : Instr} (he : errorCodes i s = []) : EndsOk s (exec i s) := by
  simp only [errorCodes_eq_heldCodes, heldCodes_cons_eq_nil, Bool.not_eq_false'] at he
  obtain ⟨hwf, hseed, hmissing, hclosed, hdomain, hnodes, hindex, hfull, -⟩ := he
  cases i with
  | srst => exact endsOk_respond (a := s.restart) rfl (.inr rfl)
  | clresr => exact endsOk_respond (a := { s with esr := 0 }) rfl (.inr rfl)
  | rdesr | pdraws => exact endsOk_respond rfl (.inl rfl)
  | pseed seed => exact endsOk_respond (a := { s with prng := Prng.seed seed }) rfl (.inl rfl)
  | pnext =>
    rw [exec_pnext ((Bool.not_eq_false' _).mp hseed)]
    exact endsOk_respond rfl (.inl rfl)
  | bclr | bsize | bempty =>
    obtain ⟨c, hb⟩ := exists_of_container?_isSome hwf
    simp only [exec_bclr hb, exec_bsize hb, exec_bempty hb]
    exact endsOk_respond rfl (.inl rfl)
  | bpush | bput =>
    obtain ⟨c, hb⟩ := exists_of_container?_isSome hwf
    rw [capacityExceeded, onContainer_eq hb, decide_eq_false_iff_not, not_lt] at hfull
    simp only [exec_bpush hb, exec_bput hb]
    exact endsOk_append hfull
  | bpushv b n v =>
    obtain ⟨hunit, hcount⟩ := Bool.and_eq_true_iff.mp hwf
    obtain ⟨c, hb⟩ := exists_of_container?_isSome hunit
    rw [capacityExceeded, onContainer_eq hb, decide_eq_false_iff_not, not_lt, ← bitsOf_length n.toNat v] at hfull
    rw [exec_bpushv hb (of_decide_eq_true hcount)]
    exact endsOk_append hfull
  | brd =>
    obtain ⟨c, hb⟩ := exists_of_container?_isSome hwf
    rw [indexOutside, onContainer_eq hb, decide_eq_false_iff_not, not_le] at hindex
    rw [exec_brd hb (List.getElem?_eq_getElem hindex)]
    exact endsOk_respond rfl (.inl rfl)
  | bwr =>
    obtain ⟨c, hb⟩ := exists_of_container?_isSome hwf
    rw [indexOutside, onContainer_eq hb, decide_eq_false_iff_not, not_le] at hindex
    rw [exec_bwr hb hindex]
    exact endsOk_respond rfl (.inl rfl)
  | btoint =>
    obtain ⟨c, hb⟩ := exists_of_container?_isSome hwf
    rw [indexOutside, onContainer_eq hb, decide_eq_false_iff_not, not_lt] at hindex
    rw [exec_btoint hb hindex]
    exact endsOk_respond rfl (.inl rfl)
  | brdbyte =>
    obtain ⟨c, hb⟩ := exists_of_container?_isSome hwf
    rw [indexOutside, onContainer_eq hb, decide_eq_false_iff_not, not_lt] at hindex
    rw [exec_brdbyte hb hindex]
    exact endsOk_respond rfl (.inl rfl)
  | bfromint =>
    obtain ⟨hunit, hcount⟩ := Bool.and_eq_true_iff.mp hwf
    obtain ⟨c, hb⟩ := exists_of_container?_isSome hunit
    rw [exec_bfromint hb (of_decide_eq_true hcount)]
    exact endsOk_respond rfl (.inl rfl)
  | beq =>
    obtain ⟨hfst, hsnd⟩ := Bool.and_eq_true_iff.mp hwf
    obtain ⟨c, hb⟩ := exists_of_container?_isSome hfst
    obtain ⟨c', hb'⟩ := exists_of_container?_isSome hsnd
    rw [exec_beq hb hb']
    exact endsOk_respond rfl (.inl rfl)
  | sinit =>
    obtain ⟨hunit, hsides⟩ := Bool.and_eq_true_iff.mp hwf
    obtain ⟨k, hu⟩ := exists_of_sampler?_isSome hunit
    obtain ⟨hw, hh⟩ := domainOk_iff.mp hsides
    rw [exec_sinit hu hw hh]
    exact endsOk_respond rfl (.inl rfl)
  | sgen | sext =>
    obtain ⟨k, hu⟩ := exists_of_sampler?_isSome hwf
    rw [seedMissing, Bool.not_eq_false'] at hseed
    rw [domainExceeded, onSampler_eq hu, decide_eq_false_iff_not, not_lt] at hdomain
    rw [nodesExceeded, onSampler_eq hu, decide_eq_false_iff_not, not_lt] at hnodes
    have hv := valid_of_onSampler hu hmissing
    simp only [exec_sgen hu hv hseed, exec_sext hu hv hseed]
    exact endsOk_growTo hdomain hnodes
  | sfind | ssize | sbegin =>
    obtain ⟨k, hu⟩ := exists_of_sampler?_isSome hwf
    have hv := valid_of_onSampler hu hmissing
    simp only [exec_sfind hu hv, exec_ssize hu hv, exec_sbegin hu hv]
    exact endsOk_respond rfl (.inl rfl)
  | scopy =>
    obtain ⟨hdst, hsrc⟩ := Bool.and_eq_true_iff.mp hwf
    obtain ⟨j, hd⟩ := exists_of_sampler?_isSome hdst
    obtain ⟨k, hu⟩ := exists_of_sampler?_isSome hsrc
    rw [exec_scopy hu (valid_of_onSampler hu hmissing) hd]
    exact endsOk_respond rfl (.inl rfl)
  | snext =>
    obtain ⟨k, hu⟩ := exists_of_sampler?_isSome hwf
    rw [cursorClosed, onSampler_eq hu] at hclosed
    exact endsOk_snext hu (valid_of_onSampler hu hmissing) (beq_eq_false_iff_ne.mp hclosed)

end Ok

/-! ## The status of a step -/

/-- The causes of an error do not look at the host's events. -/
theorem errorCodes_withHost (i : Instr) (s : State) (rest : List HostEvent) :
    errorCodes i { s with host := rest } = errorCodes i s := by
  cases i <;> rfl

/-- Settles O9: a command stops at the check of its lowest cause, and ends with OK where there is none. -/
theorem lowestCodeIsReported : Obligations.LowestCodeIsReported := by
  refine fun s t w rest hs h => ⟨fun hw => ?_, fun i hw => ?_⟩
  · obtain ⟨t', ht', hfails⟩ := illegalWordAnswersOne s w rest hs hw
    cases ht'.symm.trans h
    exact hfails
  · rw [stepRunsDecodedCommand s w rest i hs hw] at h
    rw [← errorCodes_withHost i s rest]
    refine ⟨fun he => ?_, fun k more he => ?_⟩
    · obtain ⟨⟨flag, data, hresp⟩, hesr⟩ := endsOk_of_errorCodes_eq_nil he t h
      refine ⟨flag, data, hresp, ?_⟩
      obtain hkept | hcleared := hesr
      · rw [hkept, BitVec.and_self]
      · exact hcleared ▸ BitVec.zero_and
    · obtain ⟨st, hst, rfl, hraise⟩ := exec_of_errorCodes he
      cases hraise.symm.trans h
      exact fails_raise _ st hst

theorem code_le_nine (st : Status) : st.code ≤ 9 := by
  cases st <;> decide

/-- Settles O8: the status is that of O9, and each code is that of a status. -/
theorem errorsArePrecise : Obligations.ErrorsArePrecise := by
  intro s t w rest hs h
  obtain ⟨hillegal, hlegal⟩ := lowestCodeIsReported s t w rest hs h
  have precise {k : Nat} (hk : k ≤ 9) (hfails : Fails { s with host := rest } t k) :
      ∃ (k : Nat) (flag : Bool) (data : Word), k ≤ 9 ∧ Responds { s with host := rest } t k flag data ∧
        (k ≠ 0 → Fails { s with host := rest } t k) :=
    have ⟨_, hresp, _⟩ := hfails
    ⟨k, false, 0, hk, hresp, fun _ => hfails⟩
  cases hspells : spells w with
  | false => exact precise (by decide) (hillegal hspells)
  | true =>
    obtain ⟨i, hw⟩ := decodes_iff_spells.mpr hspells
    obtain ⟨hok, herror⟩ := hlegal i hw
    cases he : errorCodes i s with
    | nil =>
      obtain ⟨flag, data, hresp, -⟩ := hok he
      exact ⟨0, flag, data, by decide, hresp, fun hne => absurd rfl hne⟩
    | cons k more =>
      obtain ⟨st, -, rfl, -⟩ := exec_of_errorCodes he
      exact precise (code_le_nine st) (herror _ more he)

end Sys2Proof.Machine
end

section
/-! Proofs of the statements of 60_exceptions.md, part three: `ESR` influences no command but RDESR (R217). Two runs go
side by side, from states that differ in `ESR` only. -/

namespace Sys2Proof.Machine

/-! ## Outcomes but for `ESR` -/

/-- The state with another value in `ESR`. -/
def State.withEsr (s : State) (e : Component) : State := { s with esr := e }

/-- The outcome of a command with `ESR` put to 0. -/
def eraseEsr : Host.Outcome State Fault Refusal → Host.Outcome State Fault Refusal
  | .next t => .next (t.withEsr 0)
  | .fault f => .fault f
  | .refused r => .refused r

theorem eraseEsr_eq_next {o : Host.Outcome State Fault Refusal} {t : State} :
    eraseEsr o = .next t ↔ ∃ t', o = .next t' ∧ t'.withEsr 0 = t := by
  cases o <;> simp [eraseEsr]

theorem eraseEsr_eq_fault {o : Host.Outcome State Fault Refusal} {f : Fault} : eraseEsr o = .fault f ↔ o = .fault f := by
  cases o <;> simp [eraseEsr]

section Runs
variable (s : State) (e : Component)

@[simp] theorem withEsr_container (c : Fin Config.nb) : (s.withEsr e).container c = s.container c := rfl
@[simp] theorem withEsr_sampler (k : Fin Config.ns) : (s.withEsr e).sampler k = s.sampler k := rfl
@[simp] theorem withEsr_growth (k : Fin Config.ns) : (s.withEsr e).growth k = s.growth k := rfl

/-- A check on which both runs agree. -/
theorem eraseEsr_ite {p : Prop} {d d' : Decidable p} {a a' b b' : Host.Outcome State Fault Refusal}
    (ha : eraseEsr a = eraseEsr a') (hb : eraseEsr b = eraseEsr b') :
    eraseEsr (@ite _ p d a b) = eraseEsr (@ite _ p d' a' b') := by
  by_cases hp : p
  · rwa [if_pos hp, if_pos hp]
  · rwa [if_neg hp, if_neg hp]

/-- An append looks at the length of the container. -/
theorem eraseEsr_append (c : Fin Config.nb) (bits : List Bool) :
    eraseEsr (.next ((s.withEsr e).append c bits)) = eraseEsr (.next (s.append c bits)) := by
  obtain hfit | hfull := le_or_gt ((s.container c).length + bits.length) Config.bcap
  · rw [append_of_fits hfit, append_of_fits (s := s.withEsr e) hfit]
    rfl
  · rw [append_of_full hfull, append_of_full (s := s.withEsr e) hfull]
    rfl

/-- The growth of SGEN and SEXT looks at the sampler and the source. -/
theorem eraseEsr_growTo (k : Fin Config.ns) (target : Nat) :
    eraseEsr ((s.withEsr e).growTo k target) = eraseEsr (s.growTo k target) := by
  simp only [State.growTo, withEsr_sampler, withEsr_growth]
  refine eraseEsr_ite rfl (eraseEsr_ite rfl ?_)
  split <;> rfl

/-- SNEXT looks at the sampler. -/
theorem eraseEsr_snext (u : BitVec 4) : eraseEsr (exec (.snext u) (s.withEsr e)) = eraseEsr (exec (.snext u) s) := by
  simp only [exec, execSnext, withEsr_sampler]
  split
  · rfl
  · refine eraseEsr_ite rfl ?_
    split
    · rfl
    · refine eraseEsr_ite rfl ?_
      split <;> rfl

/-- Every command but RDESR has the same outcome but for `ESR`: no check looks at it. -/
theorem eraseEsr_exec {i : Instr} (hi : i ≠ .rdesr) : eraseEsr (exec i (s.withEsr e)) = eraseEsr (exec i s) := by
  cases i with
  | rdesr => exact absurd rfl hi
  | srst | clresr | pseed | pdraws => rfl
  | pnext => exact eraseEsr_ite rfl rfl
  | bclr | bsize | bempty | bfromint | beq | sinit =>
    simp only [exec, execBclr, execBsize, execBempty, execBfromint, execBeq, execSinit]
    split <;> rfl
  | bpush | bput =>
    simp only [exec, execBpush, execBput]
    split
    · rfl
    · exact eraseEsr_append ..
  | bpushv =>
    simp only [exec, execBpushv]
    split
    · exact eraseEsr_append ..
    · rfl
  | brd =>
    simp only [exec, execBrd, withEsr_container]
    split
    · rfl
    · split <;> rfl
  | bwr | btoint | brdbyte | sfind | ssize | sbegin =>
    simp only [exec, execBwr, execBtoint, execBrdbyte, execSfind, execSsize, execSbegin]
    split
    · rfl
    · exact eraseEsr_ite rfl rfl
  | scopy =>
    simp only [exec, execScopy]
    split
    · exact eraseEsr_ite rfl rfl
    · rfl
  | sgen | sext =>
    simp only [exec, execSgen, execSext]
    split
    · rfl
    · exact eraseEsr_ite rfl (eraseEsr_ite rfl (eraseEsr_growTo ..))
  | snext => exact eraseEsr_snext ..

end Runs

/-- Settles O11, by the two runs side by side. -/
theorem esrNeverInfluences : Obligations.EsrNeverInfluences := by
  intro i s e hi
  have hrun := eraseEsr_exec s e hi
  refine ⟨fun t ht => ?_, fun f hf => ?_⟩
  · rw [ht] at hrun
    exact eraseEsr_eq_next.mp hrun
  · rw [hf] at hrun
    exact eraseEsr_eq_fault.mp hrun

end Sys2Proof.Machine
end

section
/-! Proofs of the statements of 70_reset_and_hazards.md: `rst` (R240, R242), and where a step stops (R252). -/

namespace Sys2Proof.Machine

/-! ## `rst` -/

/-- `rst` restarts the block, whatever gives the commands their effect and whatever command is abandoned. -/
theorem takeEvent_reset {P : Parameters} (run : Instr → State P → Host.Outcome (State P) Fault Refusal)
    {s : State P} {a : Option Word64} {rest : List HostEvent} (hs : s.host = .reset a :: rest) :
    takeEvent run s = .next ({ s with host := rest } : State P).restart := by
  rw [takeEvent, hs]

/-- Settles O13: the step on `rst` is the restart of SRST, without its response. -/
theorem rstAbandonsAndResets : Obligations.RstAbandonsAndResets :=
  fun _ _ _ hs => ⟨_, takeEvent_reset exec hs, restart_resetElements _, rfl, rfl⟩

/-! ## The fuel of the loop -/

/-- Settles O42: a loop that ends does so within the fuel, and an answer under fuel is the state after some number of
candidates that reaches the target. -/
theorem fuelRunsOutOnlyWhereLoopNeverEnds : Obligations.FuelRunsOutOnlyWhereLoopNeverEnds := by
  intro P width height target g hcap
  constructor
  · intro hnone hends
    obtain ⟨k, hk, hmin⟩ := exists_least_of_ends width height g hends
    cases hnone.symm.trans (growLoop_growFuel hcap hk hmin)
  · intro hendless
    cases hloop : growLoop width height target (growFuel P) g with
    | none => rfl
    | some g' =>
      obtain ⟨k, -, rfl, hk, -⟩ := growLoop_eq_some width height target _ g g' hloop
      exact absurd ⟨k, hk⟩ hendless

/-! ## Where a command stops -/

/-- How a command can end, in any state: it answers; its growth never ends; or it is SNEXT, and the open cursor is
neither at the end nor at an element of the traversal. -/
inductive Ending (s : State) : Instr → Host.Outcome State Fault Refusal → Prop
  | answer (i : Instr) (t : State) : Ending s i (.next t)
  | endlessSgen (u : BitVec 4) (k : Fin Config.ns) (n : Word) (hu : u.toNat = k.val)
      (hends : ¬ (s.growth k).ends (s.sampler k).width (s.sampler k).height n.toNat) :
      Ending s (.sgen u n) (.fault .neverResponds)
  | endlessSext (u : BitVec 4) (k : Fin Config.ns) (more : Word) (hu : u.toNat = k.val)
      (hends : ¬ (s.growth k).ends (s.sampler k).width (s.sampler k).height ((s.sampler k).count + more.toNat)) :
      Ending s (.sext u more) (.fault .neverResponds)
  | strayCursor (u : BitVec 4) (k : Fin Config.ns) (n : Nat) (hv : (s.sampler k).valid = true)
      (hc : (s.sampler k).cursor = .position n) (hn : n ≠ (s.sampler k).count)
      (hget : (preorder (s.sampler k).tree)[n]? = none) : Ending s (.snext u) (.fault .cursorOutsideTree)

section Endings
variable {i : Instr} {s : State}

/-- A check that a command makes before it acts: where it fails, the command answers. -/
theorem Ending.check {b : Bool} {st : Status} {o : Host.Outcome State Fault Refusal} (ho : b = true → Ending s i o) :
    Ending s i (if !b then .next (s.raise st) else o) := by
  cases b
  · exact .answer i _
  · exact ho rfl

/-- The growth of SGEN and SEXT: past its limits it answers an error, within them it stops only where the loop never
ends. -/
theorem Ending.growTo {k : Fin Config.ns} {target : Nat}
    (endless : ¬ (s.growth k).ends (s.sampler k).width (s.sampler k).height target → Ending s i (.fault .neverResponds)) :
    Ending s i (s.growTo k target) := by
  unfold State.growTo
  split
  · exact .answer i _
  · split
    · exact .answer i _
    next hcap =>
      split
      · exact .answer i _
      next hloop =>
        exact endless ((fuelRunsOutOnlyWhereLoopNeverEnds Config.ksbc _ _ _ _ (Nat.not_lt.mp hcap)).mp hloop)

theorem execSgen_ending (u : BitVec 4) (n : Word) : Ending s (.sgen u n) (execSgen u n s) := by
  unfold execSgen
  split
  · exact .answer _ _
  next k hu =>
    exact .check fun _ => .check fun _ => .growTo fun hends =>
      .endlessSgen u k n ((sampler?_eq_some _ u k).mp hu) hends

theorem execSext_ending (u : BitVec 4) (more : Word) : Ending s (.sext u more) (execSext u more s) := by
  unfold execSext
  split
  · exact .answer _ _
  next k hu =>
    exact .check fun _ => .check fun _ => .growTo fun hends =>
      .endlessSext u k more ((sampler?_eq_some _ u k).mp hu) hends

theorem execSnext_ending (u : BitVec 4) : Ending s (.snext u) (execSnext u s) := by
  unfold execSnext
  split
  · exact .answer _ _
  next k _ =>
    refine .check fun hv => ?_
    split
    · exact .answer _ _
    next n hc =>
      split
      · exact .answer _ _
      next hn =>
        split
        · exact .answer _ _
        next hget => exact .strayCursor u k n hv hc hn hget

/-- Every command has one of these endings: none is refused, and only SGEN, SEXT and SNEXT can stop. -/
theorem exec_ending (i : Instr) (s : State) : Ending s i (exec i s) := by
  cases i with
  | sgen => exact execSgen_ending _ _
  | sext => exact execSext_ending _ _
  | snext => exact execSnext_ending _
  | srst | rdesr | clresr | pseed | pdraws => exact .answer _ _
  | pnext => exact .check fun _ => .answer _ _
  | bclr | bpush | bpushv | bput | bsize | bempty | bfromint | beq | sinit =>
    simp only [exec, execBclr, execBpush, execBpushv, execBput, execBsize, execBempty, execBfromint, execBeq, execSinit]
    split <;> exact .answer _ _
  | brd | bwr | btoint | brdbyte =>
    simp only [exec, execBrd, execBwr, execBtoint, execBrdbyte]
    split
    · exact .answer _ _
    · split <;> exact .answer _ _
  | sfind | ssize | sbegin =>
    simp only [exec, execSfind, execSsize, execSbegin]
    split
    · exact .answer _ _
    · exact .check fun _ => .answer _ _
  | scopy =>
    simp only [exec, execScopy]
    split
    · exact .check fun _ => .answer _ _
    · exact .answer _ _

end Endings

/-- The open cursor of a sampler in form is at the end or at an element of the traversal (10_state.md R30 items 3
and 7). -/
theorem getElem?_preorder_ne_none {g : Sampler} {n : Nat} (h : g.wf) (hv : g.valid = true)
    (hc : g.cursor = .position n) (hn : n ≠ g.count) : (preorder g.tree)[n]? ≠ none := by
  obtain ⟨-, -, hform, hwithin⟩ := (Sampler.wf_iff g).mp h hv
  rw [hc] at hwithin
  have hle : n ≤ g.count := of_decide_eq_true hwithin
  rw [hform.counted] at hle hn
  rw [Ne, List.getElem?_eq_none_iff]
  omega

/-- A step answers, or runs the command the host presents. -/
theorem step_answers_or_runs (s : State) :
    (∃ t, step s = .next t) ∨ ∃ (w : Word64) (rest : List HostEvent) (i : Instr),
      s.host = .command w :: rest ∧ decode w = .ok i ∧ step s = exec i { s with host := rest } := by
  cases hs : s.host with
  | nil => exact .inl ⟨s, idleKeepsAllState s hs⟩
  | cons event rest =>
    cases event with
    | reset => exact .inl ⟨_, takeEvent_reset exec hs⟩
    | command w =>
      cases hw : decode w with
      | error => exact .inl ⟨_, takeEvent_undecoded exec hs hw⟩
      | ok i => exact .inr ⟨w, rest, i, rfl, hw, stepRunsDecodedCommand s w rest i hs hw⟩

/-- Settles O59: of the endings of a command the stray cursor is against the invariant, which leaves the answers and
the growth that never ends. -/
theorem onlyEndlessGrowthStops : Obligations.OnlyEndlessGrowthStops := by
  intro s hwf
  obtain ⟨-, hsam, -, -⟩ := hwf
  obtain ⟨t, ht⟩ | ⟨w, rest, i, hs, hw, hstep⟩ := step_answers_or_runs s
  · rw [ht]
    exact ⟨nofun, nofun⟩
  · have hending := exec_ending i { s with host := rest }
    rw [← hstep] at hending
    generalize step s = o at hending ⊢
    cases hending with
    | answer => exact ⟨nofun, nofun⟩
    | endlessSgen u k n hu hends =>
      refine ⟨nofun, ?_⟩
      rintro _ ⟨⟩
      exact ⟨rfl, w, rest, u, k, _, hs, hu, .inl ⟨n, hw, rfl⟩, hends⟩
    | endlessSext u k more hu hends =>
      refine ⟨nofun, ?_⟩
      rintro _ ⟨⟩
      exact ⟨rfl, w, rest, u, k, _, hs, hu, .inr ⟨more, hw, rfl⟩, hends⟩
    | strayCursor u k n hv hc hn hget => exact absurd hget (getElem?_preorder_ne_none (hsam k) hv hc hn)

end Sys2Proof.Machine
end
